-- ==== Sys2Proof/Word.lean ====
section
/-! DEFINITION. The value types of the Tadiran IR frame encoder core: its words and the 8-byte frame.
Rules: 00_scope.md R5, R6, R8; 10_state.md R16, R17; 20_memory.md R39. -/

namespace Sys2Proof

/-- One frame byte, or one 8-bit operand field (R5, R6). -/
abbrev Byte := BitVec 8

/-- One command word, bit 0 least significant (R6, R36). -/
abbrev CmdWord := BitVec 32

/-- One mark or space duration in microseconds (R5, R39). -/
abbrev Duration := BitVec 16

/-- A waveform: exactly 264 durations, element 0 emitted first; "not a growable collection" (R5, R37, R81). -/
abbrev Wave := Vector Duration 264

/-- The frame register FR: its eight bytes under the spec's aliases, FR0 first (R16, R17). -/
structure Frame where
  /-- FR0: "constant marker, always 0x01". -/
  marker : Byte
  /-- FR1: FANCODE in [7:4], MODECODE in [3:0]. -/
  fanMode : Byte
  /-- FR2: temperature in degrees Celsius times 2. -/
  temp2 : Byte
  /-- FR3: "reserved, 0". -/
  rsv3 : Byte
  /-- FR4: "reserved, 0". -/
  rsv4 : Byte
  /-- FR5: PWRCODE in [7:4]; [3:0] kept by power updates. -/
  power : Byte
  /-- FR6: SWINGBITS in [7:6]; [5:0] kept by swing updates. -/
  swing : Byte
  /-- FR7: the checksum byte. -/
  csum : Byte
  deriving DecidableEq, Repr

end Sys2Proof
end

