-- ==== Sys2Proof/Syntax.lean ====
section
/-! DEFINITION. The ten commands (30_encoding.md R49, R54) and the assembler's statements (R57, R58). -/

namespace Sys2Proof

/-- The commands of TFE command set 1, one constructor per row of the opcode table. The operands are
those R49 lists, in the source's order; a field the opcode does not use is no operand (R50). -/
inductive Instr where
  /-- SET_TEMP t (R65). -/
  | setTemp (t : Byte)
  /-- SET_FAN f (R66). -/
  | setFan (f : Byte)
  /-- SET_MODE m (R67). -/
  | setMode (m : Byte)
  /-- SET_POWER p (R68). -/
  | setPower (p : Bool)
  /-- SET_SWING s (R69). -/
  | setSwing (s : Bool)
  /-- POWER_OFF (R70). -/
  | powerOff
  /-- POWER_ON m, f, t, s (R71). -/
  | powerOn (m f t : Byte) (s : Bool)
  /-- CHECKSUM (R72). -/
  | checksum
  /-- ENCODE (R82). -/
  | encode
  /-- SEND p, m, f, t, s (R87). -/
  | send (p : Bool) (m f t : Byte) (s : Bool)
  deriving DecidableEq, Repr

/-- One statement of the assembler (R57, R58), its operands the numbers as they are written. -/
inductive AsmStmt where
  | setTemp (t : Nat)
  | setFan (f : Nat)
  | setMode (m : Nat)
  | setPower (p : Nat)
  | setSwing (s : Nat)
  | powerOff
  | powerOn (m f t s : Nat)
  | checksum
  | encode
  | send (p m f t s : Nat)
  /-- `SEND_OFF` (R58). -/
  | sendOff
  /-- `SEND_ON m, f, t, s` (R58). -/
  | sendOn (m f t s : Nat)
  /-- `SWING_ON` (R58). -/
  | swingOn
  /-- `SWING_OFF` (R58). -/
  | swingOff
  /-- `.word w`: the word verbatim (R57). -/
  | word (w : Nat)
  deriving DecidableEq, Repr

end Sys2Proof
end

