-- ==== Sys2Proof/WellFormed.lean ====
section
/-! DEFINITION. Which terms are well formed. Rules: 30_encoding.md R48, R53, R57; 40_frame_codec.md R73. -/

namespace Sys2Proof

/-- Every command with its typed operands is well formed: an out-of-range operand *value* is never
illegal (R53, R73), and the fields' widths are their types (R48; log 10). -/
def Instr.wf (i : Instr) : Bool :=
  match i with
  | .setTemp _ => true
  | .setFan _ => true
  | .setMode _ => true
  | .setPower _ => true
  | .setSwing _ => true
  | .powerOff => true
  | .powerOn _ _ _ _ => true
  | .checksum => true
  | .encode => true
  | .send _ _ _ _ _ => true

/-- A number fits an 8-bit operand field: "T, F and M operands are 0..255" (R57). -/
def fitsByte (n : Nat) : Bool := n < 256

/-- A number fits a 1-bit operand field: "P and S operands are `0` or `1`" (R57). -/
def fitsBit (n : Nat) : Bool := n < 2

/-- The assembler "rejects a value outside its field's range" (R57). -/
def AsmStmt.wf (a : AsmStmt) : Bool :=
  match a with
  | .setTemp t => fitsByte t
  | .setFan f => fitsByte f
  | .setMode m => fitsByte m
  | .setPower p => fitsBit p
  | .setSwing s => fitsBit s
  | .powerOff => true
  | .powerOn m f t s => fitsByte m && fitsByte f && fitsByte t && fitsBit s
  | .checksum => true
  | .encode => true
  | .send p m f t s => fitsBit p && fitsByte m && fitsByte f && fitsByte t && fitsBit s
  | .sendOff => true
  | .sendOn m f t s => fitsByte m && fitsByte f && fitsByte t && fitsBit s
  | .swingOn => true
  | .swingOff => true
  | .word w => w < 2 ^ 32

end Sys2Proof
end

