-- ==== Sys2Proof/Decode.lean ====
section
/-! DEFINITION. The command-word decoder, total on every 32-bit word, and the encoder beside it.
Rules: 30_encoding.md R46 to R54, R57. -/

namespace Sys2Proof

/-! ### Fields of the command word (R47, R48): none is sign-extended, scaled or shifted -/

/-- OPC = cmd[31:28]. -/
def opcOf (cmd : CmdWord) : BitVec 4 := cmd.extractLsb' 28 4
/-- RSV = cmd[27:26]. -/
def rsvOf (cmd : CmdWord) : BitVec 2 := cmd.extractLsb' 26 2
/-- P = (cmd[25] = 1). -/
def pOf (cmd : CmdWord) : Bool := cmd.getLsbD 25
/-- S = (cmd[24] = 1). -/
def sOf (cmd : CmdWord) : Bool := cmd.getLsbD 24
/-- T = cmd[23:16]. -/
def tOf (cmd : CmdWord) : Byte := cmd.extractLsb' 16 8
/-- F = cmd[15:8]. -/
def fOf (cmd : CmdWord) : Byte := cmd.extractLsb' 8 8
/-- M = cmd[7:0]. -/
def mOf (cmd : CmdWord) : Byte := cmd.extractLsb' 0 8

/-- Why a word is not a command. Both reasons have the one ILLEGAL response (R54, R98). -/
inductive IllegalReason where
  /-- RSV is not 00 (R52). -/
  | reservedBits
  /-- OPC is 0x0 or in 0xB..0xF (R51). -/
  | reservedOpcode
  deriving DecidableEq, Repr

/-- The decoder's answer: R54's "Command | Illegal". -/
inductive Decoded where
  | command (i : Instr)
  | illegal (why : IllegalReason)
  deriving DecidableEq, Repr

/-- R54's `decode`: the RSV check first, then the opcode map of R49. -/
def decode (cmd : CmdWord) : Decoded :=
  if rsvOf cmd = 0b00#2 then
    match (opcOf cmd).toNat with
    | 0x1 => .command (.setTemp (tOf cmd))
    | 0x2 => .command (.setFan (fOf cmd))
    | 0x3 => .command (.setMode (mOf cmd))
    | 0x4 => .command (.setPower (pOf cmd))
    | 0x5 => .command (.setSwing (sOf cmd))
    | 0x6 => .command .powerOff
    | 0x7 => .command (.powerOn (mOf cmd) (fOf cmd) (tOf cmd) (sOf cmd))
    | 0x8 => .command .checksum
    | 0x9 => .command .encode
    | 0xA => .command (.send (pOf cmd) (mOf cmd) (fOf cmd) (tOf cmd) (sOf cmd))
    | _ => .illegal .reservedOpcode
  else .illegal .reservedBits

/-- The command word with the fields of R47, RSV = 00. -/
def packWord (opc : BitVec 4) (p s : Bool) (t f m : Byte) : CmdWord :=
  opc ++ 0b00#2 ++ BitVec.ofBool p ++ BitVec.ofBool s ++ t ++ f ++ m

/-- The word of a command by the table of R57; every ignored field is written as zero. -/
def encode (i : Instr) : CmdWord :=
  match i with
  | .setTemp t => packWord 0x1#4 false false t 0#8 0#8
  | .setFan f => packWord 0x2#4 false false 0#8 f 0#8
  | .setMode m => packWord 0x3#4 false false 0#8 0#8 m
  | .setPower p => packWord 0x4#4 p false 0#8 0#8 0#8
  | .setSwing s => packWord 0x5#4 false s 0#8 0#8 0#8
  | .powerOff => packWord 0x6#4 false false 0#8 0#8 0#8
  | .powerOn m f t s => packWord 0x7#4 false s t f m
  | .checksum => packWord 0x8#4 false false 0#8 0#8 0#8
  | .encode => packWord 0x9#4 false false 0#8 0#8 0#8
  | .send p m f t s => packWord 0xA#4 p s t f m

/-- The command word whose low `nbits` bits are `w`'s and whose other bits are 0. A command word is one
32-bit unit with no byte order (R36), so the opcode table's bit numbers are its own (log 11). -/
def tableWord (nbits w : Nat) : CmdWord := BitVec.ofNat 32 (w % 2 ^ nbits)

/-- The command the decoder reads from the opcode table's word; none where the word is illegal. -/
def decodeTableWord (nbits w : Nat) : Option Instr :=
  match decode (tableWord nbits w) with
  | .command i => some i
  | .illegal _ => none

end Sys2Proof
end

