-- ==== Sys2Proof/Machine/Operands.lean ====
section
/-! DEFINITION. Truncation, the operand forms, and the views of the frame by byte, by field and as FRAME_Q.
Rules: 00_scope.md R9, R10; 10_state.md R17, R22; 20_memory.md R35; 30_encoding.md R55; 40_frame_codec.md R65 to R71. -/

namespace Sys2Proof.Machine

/-- `trunc8(x) = x mod 256` for any integer x, the non-negative residue (R9). It is also how a host forms the
fields T, F and M from its integers (R55). -/
def trunc8 (x : Int) : Byte := BitVec.ofInt 8 x

/-! ### Operand forms: the byte a field write leaves -/

/-- FR2 from T: `trunc8(2 * T)` (R65). -/
def scaleTemp (t : Byte) : Byte := trunc8 (2 * t.toNat)

/-- FR1 with FANCODE from F: `trunc8(((1 + F) << 4) | (FR[1] & 0x0F))` (R66). -/
def insertFan (f fr1 : Byte) : Byte :=
  trunc8 (((1 + f.toNat) <<< 4) ||| (fr1 &&& 0x0F#8).toNat : Nat)

/-- FR1 with MODECODE from M: `(FR[1] & 0xF0) | (M & 0x0F)` (R67). -/
def insertMode (m fr1 : Byte) : Byte := (fr1 &&& 0xF0#8) ||| (m &&& 0x0F#8)

/-- FR1 from F and M: `(((1 + F) mod 16) << 4) | (M & 0x0F)` (R71). -/
def packFanMode (f m : Byte) : Byte :=
  trunc8 ((((1 + f.toNat) % 16) <<< 4) ||| (m &&& 0x0F#8).toNat : Nat)

/-- FR5 with PWRCODE from P: `(P ? 0x30 : 0xC0) | (FR[5] & 0x0F)` (R68). -/
def insertPower (p : Bool) (fr5 : Byte) : Byte := (if p then 0x30#8 else 0xC0#8) ||| (fr5 &&& 0x0F#8)

/-- FR6 with SWINGBITS from S: `S ? (FR[6] | 0xC0) : (FR[6] & 0x3F)` (R69). -/
def insertSwing (s : Bool) (fr6 : Byte) : Byte := if s then fr6 ||| 0xC0#8 else fr6 &&& 0x3F#8

/-! ### Views of the frame -/

/-- FR[i] (R10, R16). -/
def frameByte (f : Frame) (i : Fin 8) : Byte :=
  match i with
  | 0 => f.marker
  | 1 => f.fanMode
  | 2 => f.temp2
  | 3 => f.rsv3
  | 4 => f.rsv4
  | 5 => f.power
  | 6 => f.swing
  | 7 => f.csum

/-- The bytes in order, FR0 first. -/
def frameBytes (f : Frame) : List Byte :=
  [f.marker, f.fanMode, f.temp2, f.rsv3, f.rsv4, f.power, f.swing, f.csum]

/-- FR1[7:4] (R17). -/
def fanCode (f : Frame) : BitVec 4 := f.fanMode.extractLsb' 4 4
/-- FR1[3:0] (R17). -/
def modeCode (f : Frame) : BitVec 4 := f.fanMode.extractLsb' 0 4
/-- FR5[7:4] (R17). -/
def pwrCode (f : Frame) : BitVec 4 := f.power.extractLsb' 4 4
/-- FR5[3:0] (R17). -/
def powerLow (f : Frame) : BitVec 4 := f.power.extractLsb' 0 4
/-- FR6[7:6] (R17). -/
def swingBits (f : Frame) : BitVec 2 := f.swing.extractLsb' 6 2
/-- FR6[5:0] (R17). -/
def swingLow (f : Frame) : BitVec 6 := f.swing.extractLsb' 0 6

/-- FRAME_Q: `FRAME_Q[8i+7 : 8i] = FR[i]`, FR0 least significant (R35). -/
def packFrameQ (f : Frame) : BitVec 64 :=
  f.csum ++ f.swing ++ f.power ++ f.rsv4 ++ f.rsv3 ++ f.temp2 ++ f.fanMode ++ f.marker

/-- OFF_FRAME, "a verbatim constant, not a derived value" (R22). -/
def offFrame : Frame := ⟨0x01, 0x14, 0x30, 0x00, 0x00, 0xC0, 0x00, 0x15⟩

end Sys2Proof.Machine
end

