-- ==== Sys2Proof/Config.lean ====
section
/-! DEFINITION. The two model parameters of 00_scope.md R7: what the source leaves to the implementation. -/

namespace Sys2Proof

/-- The parameters the model takes as an argument (R7). They never change while the machine runs (log 1). -/
structure Params where
  /-- `P_RESET_FRAME`: the frame register's contents after reset; its admissible values are those of R30
  (`Params.Admissible` in Safety.lean). -/
  resetFrame : Frame
  /-- `ON_SETS_POWER`: whether POWER_ON, and SEND with P = 1, also write FR5's power code (D9). -/
  onSetsPower : Bool
  deriving DecidableEq, Repr

/-- The spec's reference values (R7, R30): the test vectors' own choice.
DESIGN CHOICE (log 1): only `State.reset` uses them; no statement may rest on them unless it names them. -/
def Params.reference : Params :=
  { resetFrame := ⟨0x01, 0x14, 0x30, 0x00, 0x00, 0x30, 0x00, 0x0C⟩
    onSetsPower := false }

end Sys2Proof
end

