-- ==== Sys2Proof/Machine/State.lean ====
section
/-! DEFINITION. The machine's state, its launch and reset values, and the reasons a step can stop.
Rules: 10_state.md R15, R26, R27, R29; 70_reset_and_hazards.md R107, R108, R112; 60_exceptions.md R93, R95. -/

namespace Sys2Proof.Machine

/-- One hand-off to the Transmitter: `{ durations : 264 x u16, carrierKHz }` (R26, R88). -/
structure HandOff where
  durations : Wave
  carrierKHz : Nat
  deriving DecidableEq, Repr

/-- The response's status (R27, R56, R95): no other code exists. -/
inductive Status where
  | ok
  | illegal
  deriving DecidableEq, Repr

/-- The response to one command word (R27, R56). -/
structure Response where
  status : Status
  data : Byte
  /-- Absent unless the command is ENCODE. -/
  wave : Option Wave
  deriving DecidableEq, Repr

/-- What the reset input does (R98, R107, R108). The model's own form of that input (log 5). -/
inductive ResetInput where
  /-- Not asserted. -/
  | idle
  /-- Asserted: the next step is the reset. -/
  | asserted
  /-- It will be asserted during the Transmitter wait of the next SEND. -/
  | duringSend
  deriving DecidableEq, Repr

/-- The state. `fr` and `txlog` are all the architectural state the spec gives the machine (R15); the other
fields are the model's own: the inputs, the record of the responses and the parameters (log 1, 2, 4, 5). -/
structure State where
  /-- The frame register FR0..FR7 (R16). -/
  fr : Frame
  /-- TxLog: the hand-offs made since launch, oldest first (R26). -/
  txlog : List HandOff
  /-- The command words presented and not yet accepted, oldest first (R43, R112). -/
  port : List CmdWord
  /-- The reset input. -/
  resetIn : ResetInput
  /-- The responses delivered since launch, oldest first (R27). Written only, never read by a step. -/
  respLog : List Response
  /-- The parameters of R7. -/
  params : Params
  deriving DecidableEq, Repr

/-- Why a step could stop with a fault. No constructor: "cannot fail given any input" (R93, R95), and an illegal
word is answered by a response, not by a stop (R94). Nobody raises one; safe (log 9). -/
inductive Fault where
  deriving DecidableEq, Repr

/-- Why a step could be refused. -/
inductive Refusal where
  /-- Raised only by an arm of `exec` whose instruction has no meaning yet; no arm is left so. Safe. -/
  | notModelled (mnemonic : String)
  deriving DecidableEq, Repr

/-- The launch state `{ fr = P_RESET_FRAME, txlog = [] }` of R107, for any parameters (R7: "each an argument of
the model"). Nothing is presented, asserted or delivered yet (log 2, 4, 5). -/
def State.launch (p : Params) : State :=
  { fr := p.resetFrame, txlog := [], port := [], resetIn := .idle, respLog := [], params := p }

/-- The machine right after reset at power-up (R29, R107), with the spec's reference parameters.
DESIGN CHOICE (log 1): statements speak of `State.launch p` for every `p`. -/
def State.reset : State := State.launch Params.reference

end Sys2Proof.Machine
end

