-- ==== Sys2Proof/Machine/Flags.lean ====
section
/-! DEFINITION. TFE holds no flags (10_state.md R20). What a program can test instead: the checksum's swing
term, the Off/On classification of the frame, and the response's status code. Rules: R20, R24, R56, R60, R95. -/

namespace Sys2Proof.Machine

/-- The checksum's `swingOn`: `(FR[6] & 0xC0) != 0` (R60). A term, not a flag (R20). -/
def swingOn (fr6 : Byte) : Bool := (fr6 &&& 0xC0#8) != 0#8

/-- `Off(FR) := (FR = OFF_FRAME)`, a classification and not a stored bit (R24). -/
def isOff (f : Frame) : Bool := f == offFrame

/-- `On(FR) := not Off(FR)` (R24). -/
def isOn (f : Frame) : Bool := !isOff f

/-- The response's 1-bit status: 0 = OK, 1 = ILLEGAL (R56, R95). -/
def statusCode (st : Status) : BitVec 1 :=
  match st with
  | .ok => 0
  | .illegal => 1

end Sys2Proof.Machine
end

