-- ==== Sys2Proof/Machine/Ops.lean ====
section
/-! DEFINITION. The shared operations: the checksum, the frame updates that more than one command makes, the
response, the hand-off, the ILLEGAL exception, reset, and what the host of the block may do between two steps.
Rules: 00_scope.md R10; 20_memory.md R35; 40_frame_codec.md R60, R63, R70, R71; 42_command_sequencer.md R88;
60_exceptions.md R94, R96 to R98; 70_reset_and_hazards.md R107, R108, R112. -/

namespace Sys2Proof.Machine

/-! ### The checksum -/

/-- R60's `sum`: FR0 to FR6 added modulo 256. -/
def checksumSum (f : Frame) : Byte :=
  f.marker + f.fanMode + f.temp2 + f.rsv3 + f.rsv4 + f.power + f.swing

/-- R60's `sub`, before any truncation: `15*(3 + temp/8) + fan*15 + (swingOn ? 180 : 0)`, all divisions floor. -/
def checksumSub (f : Frame) : Nat :=
  let temp := f.temp2.toNat / 2
  let fan := ((f.fanMode &&& 0xF0#8) >>> 4).toNat
  15 * (3 + temp / 8) + fan * 15 + (if swingOn f.swing then 180 else 0)

/-- `CS(FR) = trunc8(sum - sub)` (R60). It reads FR0 to FR6 only (R62). -/
def checksum (f : Frame) : Byte := trunc8 ((checksumSum f).toNat - checksumSub f)

/-- "Recompute checksum": `FR[7] <- CS(FR)` on the frame after the field writes (R63). -/
def recompute (f : Frame) : Frame := { f with csum := checksum f }

/-! ### Whole-frame updates shared by POWER_OFF, POWER_ON and SEND -/

/-- `FR <- OFF_FRAME` with no checksum, whatever the frame was (R70). -/
def applyPowerOff (_ : Frame) : Frame := offFrame

/-- POWER_ON's frame (R71): FR1, FR2 and the swing bits, the power code iff `ON_SETS_POWER`, then the checksum. -/
def applyPowerOn (onSetsPower : Bool) (m f t : Byte) (s : Bool) (fr : Frame) : Frame :=
  recompute
    { fr with
      temp2 := scaleTemp t
      fanMode := packFanMode f m
      swing := insertSwing s fr.swing
      power := if onSetsPower then insertPower true fr.power else fr.power }

/-! ### Commits to the state -/

/-- Commit a whole new frame (R40). -/
def State.setFrame (s : State) (f : Frame) : State := { s with fr := f }

/-- `respond(status, data, wave)`: deliver the command's one response (R10, R27). -/
def State.respond (s : State) (st : Status) (data : Byte) (wave : Option Wave) : State :=
  { s with respLog := s.respLog ++ [⟨st, data, wave⟩] }

/-- The carrier value handed over with every waveform, in kHz (R88). -/
def carrierKHz : Nat := 38

/-- `transmit(W, 38)`: append one hand-off to TxLog (R10, R88). -/
def State.transmit (s : State) (w : Wave) : State :=
  { s with txlog := s.txlog ++ [⟨w, carrierKHz⟩] }

/-! ### The exception and reset -/

/-- `raise ILLEGAL` (R94): respond ILLEGAL with data 0x00 and no wave, and change nothing. No state is saved, no mode
changes and control goes nowhere, so there is no return from it either (R96, R97). -/
def State.raiseIllegal (s : State) : State := s.respond .illegal 0x00 none

/-- The reset step (R107): FR takes `P_RESET_FRAME` in one commit, TxLog stays, no response is delivered. The words
held at the port were "not yet accepted when reset is asserted": they are not executed and get no response
(R98; log 6). -/
def State.takeReset (s : State) : State :=
  { s with fr := s.params.resetFrame, port := [], resetIn := .idle }

/-- Reset arrived during this SEND's Transmitter wait (R108): its frame update and hand-off stand, its response is not
delivered (`before` is the record as it was), and the reset is the next step. -/
def State.cutShort (before : List Response) (t : State) : State :=
  { t with respLog := before, resetIn := .asserted }

/-! ### Ports, as the host of the block sees them -/

/-- The port FRAME_Q: FR as committed by the last step; reading it changes nothing (R28, R35). -/
def State.frameQ (s : State) : BitVec 64 := packFrameQ s.fr

/-- The host presents one more command word; it waits behind those already presented (R43, R112). -/
def State.present (s : State) (w : CmdWord) : State := { s with port := s.port ++ [w] }

/-- The host asserts the reset input (R107): the reset is the next step. DESIGN CHOICE (log 5): a reset announced for a
SEND's wait then comes now, and is that one reset. -/
def State.assertReset (s : State) : State := { s with resetIn := .asserted }

/-- The host will assert the reset input during the next SEND's Transmitter wait (R108). DESIGN CHOICE (log 5): a reset
already asserted, also the one a cut-short SEND leaves pending, cannot be withdrawn before its step; it stays the next
step, and this changes nothing. -/
def State.assertResetDuringSend (s : State) : State :=
  { s with resetIn := if s.resetIn = .asserted then .asserted else .duringSend }

end Sys2Proof.Machine
end

