-- ==== Sys2Proof/Machine/Waveform.lean ====
section
/-! DEFINITION. The pulse ROM, the waveform function ENC and the decode of a waveform back to a frame.
Rules: 41_waveform_encoder.md R77 to R81, R84. -/

namespace Sys2Proof.Machine

/-- The five symbol kinds of the pulse ROM (R77). -/
inductive Pulse where
  | hdr
  | one
  | zero
  | gap
  | trail
  deriving DecidableEq, Repr

/-- The pulse ROM's mark column, in microseconds (R77). -/
def markOf (k : Pulse) : Duration :=
  match k with
  | .hdr => 8000
  | .one => 1618
  | .zero => 545
  | .gap => 1618
  | .trail => 1618

/-- The pulse ROM's space column, in microseconds (R77). -/
def spaceOf (k : Pulse) : Duration :=
  match k with
  | .hdr => 4000
  | .one => 545
  | .zero => 1618
  | .gap => 31000
  | .trail => 1618

/-- The data symbol of one bit: ONE if it is set, else ZERO (R78). -/
def bitPulse (b : Bool) : Pulse := if b then .one else .zero

/-- The eight data symbols of a byte, "from least-significant to most-significant" (R79, R80). -/
def bytePulses (b : Byte) : List Pulse := (List.range 8).map (fun j => bitPulse (b.getLsbD j))

/-- Repeat `r`: the header, the 64 data symbols, FR0 first, and the gap if this is not the final repeat (R79). -/
def repeatPulses (f : Frame) (r : Nat) : List Pulse :=
  [.hdr] ++ (frameBytes f).flatMap bytePulses ++ (if r = 0 then [.gap] else [])

/-- The 132 symbols: two repeats, then the trailer (R78, R79). -/
def framePulses (f : Frame) : List Pulse := (List.range 2).flatMap (repeatPulses f) ++ [.trail]

/-- Each symbol is emitted as its mark, then its space (R78). -/
def emit (ks : List Pulse) : List Duration := ks.flatMap (fun k => [markOf k, spaceOf k])

theorem emit_length (ks : List Pulse) : (emit ks).length = 2 * ks.length := by
  induction ks with
  | nil => rfl
  | cons k ks ih => simp only [emit, List.flatMap_cons, List.length_append] at *; simp [ih]; omega

theorem framePulses_length (f : Frame) : (framePulses f).length = 132 := by rfl

/-- The waveform function `ENC : 8 bytes -> 264 x 16 bits` (R79). It reads FR7 as stored (R81). -/
def enc (f : Frame) : Wave :=
  ⟨(emit (framePulses f)).toArray, by simp [emit_length, framePulses_length]⟩

/-! ### Reading a waveform back -/

/-- "`(mark==1618 && space==545) → 1, else 0`" (R84). -/
def pulseBit (mark space : Duration) : Bool := mark == 1618 && space == 545

/-- Position of the mark of frame bit `8i + j` in repeat `r`: `2 + 132r + 2(8i + j)` (R79, R84). -/
def markPos (r i j : Nat) : Nat := 2 + 132 * r + 2 * (8 * i + j)

/-- Byte `i` read from repeat `r` of a waveform (R84). -/
def waveByte (w : Wave) (r i : Nat) : Byte :=
  BitVec.ofNat 8
    (((List.range 8).map fun j =>
        (pulseBit (w.toList.getD (markPos r i j) 0) (w.toList.getD (markPos r i j + 1) 0)).toNat * 2 ^ j).sum)

/-- The frame read from repeat `r` of a waveform (R84). -/
def waveFrame (w : Wave) (r : Nat) : Frame :=
  ⟨waveByte w r 0, waveByte w r 1, waveByte w r 2, waveByte w r 3,
   waveByte w r 4, waveByte w r 5, waveByte w r 6, waveByte w r 7⟩

end Sys2Proof.Machine
end

