-- ==== Sys2Proof/Machine/CommandSequencer.lean ====
section
/-! DEFINITION. The meaning of SEND (42_command_sequencer.md R87 to R92). -/

namespace Sys2Proof.Machine

/-- The frame SEND leaves: the off-frame when P = 0, "ignoring all other arguments"; POWER_ON's frame when P = 1 (R87). -/
def sendFrame (onSetsPower p : Bool) (m f t : Byte) (sw : Bool) (fr : Frame) : Frame :=
  if p then applyPowerOn onSetsPower m f t sw fr else applyPowerOff fr

/-- SEND p, m, f, t, s (R87), one atomic step: the frame update first, then ENC of the updated frame, then the hand-off
(R92), then the success flag, always 1 (R89). The hand-off is assumed to complete (R106; log 7). -/
def execSend (p : Bool) (m f t : Byte) (sw : Bool) (s : State) : Host.Outcome State Fault Refusal :=
  let updated := s.setFrame (sendFrame s.params.onSetsPower p m f t sw s.fr)
  .next ((updated.transmit (enc updated.fr)).respond .ok 0x01 none)

end Sys2Proof.Machine
end

