-- ==== Sys2Proof/Machine/FrameCodec.lean ====
section
/-! DEFINITION. The meanings of the FrameCodec commands (40_frame_codec.md R65 to R72). Each commits its frame
writes and its response in one step (20_memory.md R40) and fails on no operand (R73, R93). -/

namespace Sys2Proof.Machine

/-- SET_TEMP t (R65). -/
def execSetTemp (t : Byte) (s : State) : Host.Outcome State Fault Refusal :=
  .next ((s.setFrame (recompute { s.fr with temp2 := scaleTemp t })).respond .ok 0x00 none)

/-- SET_FAN f (R66). -/
def execSetFan (f : Byte) (s : State) : Host.Outcome State Fault Refusal :=
  .next ((s.setFrame (recompute { s.fr with fanMode := insertFan f s.fr.fanMode })).respond .ok 0x00 none)

/-- SET_MODE m (R67). -/
def execSetMode (m : Byte) (s : State) : Host.Outcome State Fault Refusal :=
  .next ((s.setFrame (recompute { s.fr with fanMode := insertMode m s.fr.fanMode })).respond .ok 0x00 none)

/-- SET_POWER p (R68): only FR5[7:4] and FR7; it is not POWER_OFF. -/
def execSetPower (p : Bool) (s : State) : Host.Outcome State Fault Refusal :=
  .next ((s.setFrame (recompute { s.fr with power := insertPower p s.fr.power })).respond .ok 0x00 none)

/-- SET_SWING s (R69): FR6[5:0] is kept. -/
def execSetSwing (sw : Bool) (s : State) : Host.Outcome State Fault Refusal :=
  .next ((s.setFrame (recompute { s.fr with swing := insertSwing sw s.fr.swing })).respond .ok 0x00 none)

/-- POWER_OFF (R70): the literal off-frame, its checksum byte not recomputed. -/
def execPowerOff (s : State) : Host.Outcome State Fault Refusal :=
  .next ((s.setFrame (applyPowerOff s.fr)).respond .ok 0x00 none)

/-- POWER_ON m, f, t, s (R71). -/
def execPowerOn (m f t : Byte) (sw : Bool) (s : State) : Host.Outcome State Fault Refusal :=
  .next ((s.setFrame (applyPowerOn s.params.onSetsPower m f t sw s.fr)).respond .ok 0x00 none)

/-- CHECKSUM (R72): respond CS(FR); FR7 is not written. -/
def execChecksum (s : State) : Host.Outcome State Fault Refusal :=
  .next (s.respond .ok (checksum s.fr) none)

end Sys2Proof.Machine
end

