-- ==== Sys2Proof/Machine/WaveformEncoder.lean ====
section
/-! DEFINITION. The meaning of ENCODE (41_waveform_encoder.md R82). -/

namespace Sys2Proof.Machine

/-- ENCODE (R82): respond ENC(FR); FR and TxLog unchanged, nothing sent to the Transmitter. -/
def execEncode (s : State) : Host.Outcome State Fault Refusal :=
  .next (s.respond .ok 0x00 (some (enc s.fr)))

end Sys2Proof.Machine
end

