-- ==== Sys2Proof/Machine/Dispatch.lean ====
section
/-! DEFINITION. One arm per command: the meaning of each (30_encoding.md R49). -/

namespace Sys2Proof.Machine

/-- Execute one command (R49): its whole effect, in one step (R11). -/
def exec (i : Instr) (s : State) : Host.Outcome State Fault Refusal :=
  match i with
  | .setTemp t => Sys2Proof.Machine.execSetTemp t s
  | .setFan f => Sys2Proof.Machine.execSetFan f s
  | .setMode m => Sys2Proof.Machine.execSetMode m s
  | .setPower p => Sys2Proof.Machine.execSetPower p s
  | .setSwing sw => Sys2Proof.Machine.execSetSwing sw s
  | .powerOff => Sys2Proof.Machine.execPowerOff s
  | .powerOn m f t sw => Sys2Proof.Machine.execPowerOn m f t sw s
  | .checksum => Sys2Proof.Machine.execChecksum s
  | .encode => Sys2Proof.Machine.execEncode s
  | .send p m f t sw => Sys2Proof.Machine.execSend p m f t sw s

end Sys2Proof.Machine
end

