-- ==== Sys2Proof/Machine/Accept.lean ====
section
/-! DEFINITION. Accepting one command word: decode, then the command's meaning or the ILLEGAL response.
Rules: 30_encoding.md R51 to R54; 60_exceptions.md R94, R98; 70_reset_and_hazards.md R108. -/

namespace Sys2Proof.Machine

/-- Only SEND waits for the Transmitter, so only SEND can be cut short by reset (R108). -/
def isSend (i : Instr) : Bool :=
  match i with
  | .send _ _ _ _ _ => true
  | .setTemp _ => false
  | .setFan _ => false
  | .setMode _ => false
  | .setPower _ => false
  | .setSwing _ => false
  | .powerOff => false
  | .powerOn _ _ _ _ => false
  | .checksum => false
  | .encode => false

/-- Run a command. A SEND during whose wait reset arrives keeps its effects, loses its response, and the reset is the
next step (R108); every other command "cannot be interrupted by reset". -/
def runCommand (i : Instr) (s : State) : Host.Outcome State Fault Refusal :=
  match exec i s with
  | .next t => .next (if isSend i && s.resetIn == .duringSend then t.cutShort s.respLog else t)
  | .fault r => .fault r
  | .refused r => .refused r

/-- Accept one command word (R54): run the command it decodes to, or raise ILLEGAL (R94). -/
def acceptWord (w : CmdWord) (s : State) : Host.Outcome State Fault Refusal :=
  match decode w with
  | .command i => runCommand i s
  | .illegal _ => .next s.raiseIllegal

/-- One step: "one command word or one reset" (R11). Reset outranks a word not yet accepted (R98); else the oldest word
presented is accepted (R43, R112); with nothing presented, nothing happens (DESIGN CHOICE, log 3). -/
def stepOnce (s : State) : Host.Outcome State Fault Refusal :=
  if s.resetIn = .asserted then .next s.takeReset
  else
    match s.port with
    | [] => .next s
    | w :: rest => acceptWord w { s with port := rest }

/-- The word becomes the next one accepted: the oldest at the port, with the reset input idle. This places a word for a
test; it is no event of the machine or of its host, which cannot withdraw a reset (log 2, 5). -/
def State.withNextWord (s : State) (w : CmdWord) : State :=
  { s with port := w :: s.port, resetIn := .idle }

end Sys2Proof.Machine
end

