-- ==== Sys2Proof/Machine/Step.lean ====
section
/-! DEFINITION. The step, and how a word is placed where the next step takes it (00_scope.md R11; 20_memory.md R43). -/

namespace Sys2Proof.Machine

/-- One step of the machine (R11). -/
def step (s : State) : Host.Outcome State Fault Refusal := stepOnce s

/-- `s` with the opcode table's word as the next command word accepted (log 2, 11). -/
def State.withFetchWord (s : State) (nbits w : Nat) : State := s.withNextWord (tableWord nbits w)

end Sys2Proof.Machine
end

