-- ==== Sys2Proof/Machine/Assembler.lean ====
section
/-! DEFINITION. The assembler of 30_encoding.md R57 and its pseudo-instructions (R58). It is a notation for command
words and no part of the machine's step. What R57 leaves open about text is log 12. -/

namespace Sys2Proof.Machine

/-! ### Statements to words -/

/-- The written 0 or 1 of a P or S operand (R57). -/
def bitOperand (n : Nat) : Bool := n == 1

/-- The written 0..255 of a T, F or M operand (R57). -/
def byteOperand (n : Nat) : Byte := BitVec.ofNat 8 n

/-- The word a statement stands for, its pseudo-instructions expanded by R58. -/
def asmWord (a : AsmStmt) : CmdWord :=
  match a with
  | .setTemp t => encode (.setTemp (byteOperand t))
  | .setFan f => encode (.setFan (byteOperand f))
  | .setMode m => encode (.setMode (byteOperand m))
  | .setPower p => encode (.setPower (bitOperand p))
  | .setSwing s => encode (.setSwing (bitOperand s))
  | .powerOff => encode .powerOff
  | .powerOn m f t s => encode (.powerOn (byteOperand m) (byteOperand f) (byteOperand t) (bitOperand s))
  | .checksum => encode .checksum
  | .encode => encode .encode
  | .send p m f t s =>
    encode (.send (bitOperand p) (byteOperand m) (byteOperand f) (byteOperand t) (bitOperand s))
  | .sendOff => encode (.send false 0 0 0 false)
  | .sendOn m f t s => encode (.send true (byteOperand m) (byteOperand f) (byteOperand t) (bitOperand s))
  | .swingOn => encode (.setSwing true)
  | .swingOff => encode (.setSwing false)
  | .word w => BitVec.ofNat 32 w

/-- Assemble one statement: none where an operand is outside its field's range (R57). -/
def assemble (a : AsmStmt) : Option CmdWord := if a.wf then some (asmWord a) else none

/-! ### Text to statements -/

/-- A space, a tab or a carriage return (log 12). -/
def isBlank (c : Char) : Bool := c == ' ' || c == '\t' || c == '\r'

/-- The text without blanks at either end. -/
def trimBlank (cs : List Char) : List Char :=
  ((cs.dropWhile isBlank).reverse.dropWhile isBlank).reverse

/-- The pieces between the separators; a text without one is one piece. -/
def splitAtChar (sep : Char) : List Char → List (List Char)
  | [] => [[]]
  | c :: cs =>
    if c = sep then [] :: splitAtChar sep cs
    else
      match splitAtChar sep cs with
      | [] => [[c]]
      | piece :: rest => (c :: piece) :: rest

/-- The value of one digit below `base`; hexadecimal digits in either letter case (log 12). -/
def digitValue (base : Nat) (c : Char) : Option Nat :=
  let n := c.toNat
  let v :=
    if 48 ≤ n ∧ n ≤ 57 then n - 48
    else if 65 ≤ n ∧ n ≤ 70 then n - 55
    else if 97 ≤ n ∧ n ≤ 102 then n - 87
    else base
  if v < base then some v else none

/-- The value of a run of digits. -/
def digitsValue (base acc : Nat) : List Char → Option Nat
  | [] => some acc
  | c :: cs =>
    match digitValue base c with
    | some d => digitsValue base (acc * base + d) cs
    | none => none

/-- "numbers are decimal or `0x` hexadecimal" (R57); at least one digit. -/
def parseNumber (cs : List Char) : Option Nat :=
  match cs with
  | [] => none
  | '0' :: 'x' :: d :: ds => digitsValue 16 0 (d :: ds)
  | c :: cs => digitsValue 10 0 (c :: cs)

/-- All the operands as numbers, or none. -/
def parseNumbers : List (List Char) → Option (List Nat)
  | [] => some []
  | cs :: rest =>
    match parseNumber (trimBlank cs), parseNumbers rest with
    | some n, some ns => some (n :: ns)
    | _, _ => none

/-- The statement of a mnemonic with its operands "in the order of the source's parameter lists" (R57, R58). -/
def statementOf (mnemonic : List Char) (ops : List Nat) : Option AsmStmt :=
  match ops with
  | [] =>
    if mnemonic = "POWER_OFF".toList then some .powerOff
    else if mnemonic = "CHECKSUM".toList then some .checksum
    else if mnemonic = "ENCODE".toList then some .encode
    else if mnemonic = "SEND_OFF".toList then some .sendOff
    else if mnemonic = "SWING_ON".toList then some .swingOn
    else if mnemonic = "SWING_OFF".toList then some .swingOff
    else none
  | [a] =>
    if mnemonic = "SET_TEMP".toList then some (.setTemp a)
    else if mnemonic = "SET_FAN".toList then some (.setFan a)
    else if mnemonic = "SET_MODE".toList then some (.setMode a)
    else if mnemonic = "SET_POWER".toList then some (.setPower a)
    else if mnemonic = "SET_SWING".toList then some (.setSwing a)
    else if mnemonic = ".word".toList then some (.word a)
    else none
  | [m, f, t, s] =>
    if mnemonic = "POWER_ON".toList then some (.powerOn m f t s)
    else if mnemonic = "SEND_ON".toList then some (.sendOn m f t s)
    else none
  | [p, m, f, t, s] => if mnemonic = "SEND".toList then some (.send p m f t s) else none
  | _ => none

/-- One line: the mnemonic, then its comma-separated operands; `;` starts a comment (R57). -/
def parseLine (line : List Char) : Option AsmStmt :=
  let body := trimBlank (line.takeWhile (· != ';'))
  let mnemonic := body.takeWhile (fun c => !isBlank c)
  let operands := trimBlank (body.dropWhile (fun c => !isBlank c))
  match operands with
  | [] => statementOf mnemonic []
  | _ :: _ =>
    match parseNumbers (splitAtChar ',' operands) with
    | some ns => statementOf mnemonic ns
    | none => none

/-- The word of one line, or none where the line is no statement the assembler accepts (R57). -/
def assembleLine (line : List Char) : Option CmdWord :=
  match parseLine line with
  | some a => assemble a
  | none => none

/-- A line with nothing on it but blanks or a comment stands for no word (log 12). -/
def isEmptyLine (line : List Char) : Bool := (trimBlank (line.takeWhile (· != ';'))).isEmpty

/-- The words of a list of lines, in order; none if a line is rejected. -/
def assembleLines : List (List Char) → Option (List CmdWord)
  | [] => some []
  | line :: rest =>
    if isEmptyLine line then assembleLines rest
    else
      match assembleLine line, assembleLines rest with
      | some w, some ws => some (w :: ws)
      | _, _ => none

/-- A whole text, "one command per line" (R57). -/
def assembleText (text : List Char) : Option (List CmdWord) := assembleLines (splitAtChar '\n' text)

end Sys2Proof.Machine
end

