-- ==== Sys2Proof/Safety.lean ====
section
/-! DEFINITION. What every reachable state satisfies, and which states are reachable.
Rules: 10_state.md R26, R27, R30 to R32; 20_memory.md R43; 70_reset_and_hazards.md R107, R108, R112, R116. -/

namespace Sys2Proof

open Sys2Proof.Machine

/-- FR0 = 0x01, FR3 = FR4 = 0x00 (R30, R31). -/
abbrev FixedBytes (f : Frame) : Prop := f.marker = 0x01 ∧ f.rsv3 = 0x00 ∧ f.rsv4 = 0x00

/-- `FR7 = CS(FR) ∨ FR = OFF_FRAME` (R32). -/
abbrev ChecksumOrOff (f : Frame) : Prop := f.csum = checksum f ∨ f = offFrame

/-- The admissible values of `P_RESET_FRAME` (R30). -/
abbrev Params.Admissible (p : Params) : Prop :=
  FixedBytes p.resetFrame ∧ pwrCode p.resetFrame = 0x3 ∧ p.resetFrame.csum = checksum p.resetFrame

/-- A hand-off the machine can have made: the waveform of a frame that satisfies R31 and R32, at 38 kHz (R26). -/
def HandOff.Sound (h : HandOff) : Prop :=
  h.carrierKHz = 38 ∧ ∃ f : Frame, FixedBytes f ∧ ChecksumOrOff f ∧ h.durations = enc f

/-- A response the machine can have delivered (R27): ILLEGAL carries nothing; a wave comes with status OK, data 0x00,
and is the waveform of a frame. -/
def Response.Sound (r : Response) : Prop :=
  (r.status = .illegal → r.data = 0x00 ∧ r.wave = none) ∧
  (∀ w, r.wave = some w → r.status = .ok ∧ r.data = 0x00 ∧ ∃ f : Frame, w = enc f)

/-- The invariant: what holds at launch with admissible parameters and is kept by every step and by everything the host
of the block can do between two steps. -/
structure Inv (s : State) : Prop where
  /-- R30. -/
  admissible : s.params.Admissible
  /-- R31. -/
  fixedBytes : FixedBytes s.fr
  /-- R32. -/
  checksumOrOff : ChecksumOrOff s.fr
  /-- PWRCODE is the on code or the off code: R30 gives 0x3, R68 and R70 write 0x3 or 0xC. -/
  powerCode : pwrCode s.fr = 0x3 ∨ pwrCode s.fr = 0xC
  /-- FR5[3:0] is the reset frame's, or 0 after an off-frame (R18, R91). -/
  powerLowKept : powerLow s.fr = powerLow s.params.resetFrame ∨ powerLow s.fr = 0
  /-- FR6[5:0] is the reset frame's, or 0 after an off-frame (R18, R116). -/
  swingLowKept : swingLow s.fr = swingLow s.params.resetFrame ∨ swingLow s.fr = 0
  /-- R26. -/
  handOffs : ∀ h ∈ s.txlog, HandOff.Sound h
  /-- R27. -/
  responses : ∀ r ∈ s.respLog, Response.Sound r

/-- The states the machine can reach with parameters `p`: from launch (R107), by steps and by whatever the host of the
block does between two steps (present a word, R43; assert reset, R107; have it asserted during a SEND's wait, R108). -/
inductive Reachable (p : Params) : State → Prop where
  | launch : Reachable p (State.launch p)
  | step {s t : State} : Reachable p s → step s = .next t → Reachable p t
  | present {s : State} (w : CmdWord) : Reachable p s → Reachable p (s.present w)
  | assertReset {s : State} : Reachable p s → Reachable p s.assertReset
  | assertResetDuringSend {s : State} : Reachable p s → Reachable p s.assertResetDuringSend

end Sys2Proof
end

