-- ==== Sys2Proof/Certificates/Slice0/Obligations.lean ====
section
/-! DEFINITION. The statements for the provers. The helpers come first: they write the spec's tables and formulas a second
time, in plain arithmetic, so that a statement does not merely repeat a definition of the model. -/

namespace Sys2Proof.Claim

open Sys2Proof.Machine

/-- The state after a command that leaves frame `f`, hands nothing over and answers OK: the inputs, TxLog and the
parameters are as they were, one response is delivered. -/
def answered (s : State) (f : Frame) (data : Byte) (wave : Option Wave) : State :=
  { s with fr := f, respLog := s.respLog ++ [⟨.ok, data, wave⟩] }

/-- The state after a command that leaves frame `f`, hands its waveform over at 38 kHz and answers OK with 0x01. -/
def handedOver (s : State) (f : Frame) : State :=
  { s with fr := f, txlog := s.txlog ++ [⟨enc f, 38⟩], respLog := s.respLog ++ [⟨.ok, 0x01, none⟩] }

/-- A frame with FR7 the checksum of the others. -/
def summed (f : Frame) : Frame := { f with csum := checksum f }

/-- The off-frame, byte by byte (R22, R70). -/
def off : Frame := ⟨0x01, 0x14, 0x30, 0x00, 0x00, 0xC0, 0x00, 0x15⟩

/-- The spec's reference frame (R30). -/
def ref : Frame := ⟨0x01, 0x14, 0x30, 0x00, 0x00, 0x30, 0x00, 0x0C⟩

/-- FANMODE from a fan level and a mode: `(1 + F) mod 16` above `M mod 16`. -/
def fanModeByte (f m : Nat) : Byte := BitVec.ofNat 8 ((1 + f) % 16 * 16 + m % 16)

/-- FR5 with the power code of `p` above the low nibble of `b`. -/
def powerByte (p : Bool) (b : Byte) : Byte := BitVec.ofNat 8 ((if p then 0x30 else 0xC0) + b.toNat % 16)

/-- FR6 with the swing bits of `s` above the low six bits of `b`. -/
def swingByte (s : Bool) (b : Byte) : Byte := BitVec.ofNat 8 ((if s then 0xC0 else 0x00) + b.toNat % 64)

/-- The frame of POWER_ON m, f, t, s on the frame `b` (R71). -/
def onFrame (setsPower : Bool) (m f t : Byte) (s : Bool) (b : Frame) : Frame :=
  summed
    { b with
      temp2 := BitVec.ofNat 8 (2 * t.toNat)
      fanMode := fanModeByte f.toNat m.toNat
      swing := swingByte s b.swing
      power := if setsPower then powerByte true b.power else b.power }

/-- From frame `f`, the command leaves frame `g`. -/
def Leaves (i : Instr) (f g : Frame) : Prop :=
  ∀ s : State, s.fr = f → ∃ u, exec i s = .next u ∧ u.fr = g

/-- One command after another, each from the state the one before left. -/
def execAll : List Instr → State → Host.Outcome State Fault Refusal
  | [], s => .next s
  | i :: is, s =>
    match exec i s with
    | .next u => execAll is u
    | .fault r => .fault r
    | .refused r => .refused r

/-- The opcode number of R49. -/
def opcodeNumber (i : Instr) : Nat :=
  match i with
  | .setTemp _ => 0x1
  | .setFan _ => 0x2
  | .setMode _ => 0x3
  | .setPower _ => 0x4
  | .setSwing _ => 0x5
  | .powerOff => 0x6
  | .powerOn _ _ _ _ => 0x7
  | .checksum => 0x8
  | .encode => 0x9
  | .send _ _ _ _ _ => 0xA

/-- The bits an opcode looks at: the pattern of the opcode table with 1 for a fixed bit or an operand letter and 0 for `x`
(R47, R49, R50). -/
def usedBits (opc : Nat) : CmdWord :=
  match opc with
  | 0x1 => 0xFCFF0000
  | 0x2 => 0xFC00FF00
  | 0x3 => 0xFC0000FF
  | 0x4 => 0xFE000000
  | 0x5 => 0xFD000000
  | 0x6 => 0xFC000000
  | 0x7 => 0xFDFFFFFF
  | 0x8 => 0xFC000000
  | 0x9 => 0xFC000000
  | 0xA => 0xFFFFFFFF
  | _ => 0xFC000000

/-- The write matrix of R18: for each command, the bits of each frame byte it leaves unchanged. -/
def keptBits (setsPower : Bool) (i : Instr) : Frame :=
  match i with
  | .setTemp _ => ⟨0xFF, 0xFF, 0x00, 0xFF, 0xFF, 0xFF, 0xFF, 0x00⟩
  | .setFan _ => ⟨0xFF, 0x0F, 0xFF, 0xFF, 0xFF, 0xFF, 0xFF, 0x00⟩
  | .setMode _ => ⟨0xFF, 0xF0, 0xFF, 0xFF, 0xFF, 0xFF, 0xFF, 0x00⟩
  | .setPower _ => ⟨0xFF, 0xFF, 0xFF, 0xFF, 0xFF, 0x0F, 0xFF, 0x00⟩
  | .setSwing _ => ⟨0xFF, 0xFF, 0xFF, 0xFF, 0xFF, 0xFF, 0x3F, 0x00⟩
  | .powerOff => ⟨0x00, 0x00, 0x00, 0x00, 0x00, 0x00, 0x00, 0x00⟩
  | .powerOn _ _ _ _ => ⟨0xFF, 0x00, 0x00, 0xFF, 0xFF, if setsPower then 0x0F else 0xFF, 0x3F, 0x00⟩
  | .checksum => ⟨0xFF, 0xFF, 0xFF, 0xFF, 0xFF, 0xFF, 0xFF, 0xFF⟩
  | .encode => ⟨0xFF, 0xFF, 0xFF, 0xFF, 0xFF, 0xFF, 0xFF, 0xFF⟩
  | .send false _ _ _ _ => ⟨0x00, 0x00, 0x00, 0x00, 0x00, 0x00, 0x00, 0x00⟩
  | .send true _ _ _ _ => ⟨0xFF, 0x00, 0x00, 0xFF, 0xFF, if setsPower then 0x0F else 0xFF, 0x3F, 0x00⟩

/-- A field setter: one of SET_TEMP, SET_FAN, SET_MODE, SET_POWER, SET_SWING. -/
def isSetter (i : Instr) : Bool :=
  match i with
  | .setTemp _ => true
  | .setFan _ => true
  | .setMode _ => true
  | .setPower _ => true
  | .setSwing _ => true
  | .powerOff => false
  | .powerOn _ _ _ _ => false
  | .checksum => false
  | .encode => false
  | .send _ _ _ _ _ => false

/-- The setters POWER_ON is made of (R71), SET_POWER 1 among them iff ON_SETS_POWER. -/
def settersOf (setsPower : Bool) (m f t : Byte) (sw : Bool) : List Instr :=
  [.setTemp t, .setFan f, .setMode m, .setSwing sw] ++ (if setsPower then [.setPower true] else [])

/-- A mutator: a setter or POWER_ON (R12, R63). -/
def isMutator (i : Instr) : Bool :=
  match i with
  | .powerOn _ _ _ _ => true
  | i => isSetter i

/-- The commands that write every byte (R110): POWER_OFF and SEND with P = 0. -/
def isOffCommand (i : Instr) : Bool :=
  match i with
  | .powerOff => true
  | .send false _ _ _ _ => true
  | _ => false

/-- The mark (`h = 0`) or space of the symbol at index `sym` of a frame's waveform, by R78's table. -/
def symbolDuration (f : Frame) (sym : Nat) (space : Bool) : Nat :=
  let data (k : Nat) : Nat :=
    if (frameBytes f)[k / 8]!.getLsbD (k % 8) then (if space then 545 else 1618) else (if space then 1618 else 545)
  if sym = 0 ∨ sym = 66 then (if space then 4000 else 8000)
  else if sym ≤ 64 then data (sym - 1)
  else if sym = 65 then (if space then 31000 else 1618)
  else if sym ≤ 130 then data (sym - 67)
  else 1618

/-- The status a word is answered with (R95). -/
def statusOf (d : Decoded) : Status :=
  match d with
  | .command _ => .ok
  | .illegal _ => .illegal

/-- A step takes the word `w` as a command word: reset is not asserted and `w` is the oldest word presented
(the model's form of the command port and the reset input: log 2, 5). -/
def Takes (s : State) (w : CmdWord) (rest : List CmdWord) : Prop := s.resetIn ≠ .asserted ∧ s.port = w :: rest

end Sys2Proof.Claim

open Sys2Proof Sys2Proof.Machine Sys2Proof.Claim

/-! ### The commands: encoding, effect, frame and response -/

/-- R65, SET_TEMP: its words (pattern 000100xx...), and for every T and every state the next state: FR2 = 2T mod 256, FR7 the
checksum of the new frame, response OK 0x00, everything else unchanged; FR2 is even; the rule's example. -/
def Obligations.SetTempDoublesIntoTemp2 : Prop :=
  (∀ w : CmdWord, w.extractLsb' 26 6 = 0b000100#6 → decode w = .command (.setTemp (w.extractLsb' 16 8))) ∧
  (∀ (t : Byte) (s : State),
    exec (.setTemp t) s = .next (answered s (summed { s.fr with temp2 := BitVec.ofNat 8 (2 * t.toNat) }) 0x00 none)) ∧
  (∀ (t : Byte) (s : State), ∃ u, exec (.setTemp t) s = .next u ∧ u.fr.temp2.toNat % 2 = 0) ∧
  Leaves (.setTemp 16) ref ⟨0x01, 0x14, 0x20, 0x00, 0x00, 0x30, 0x00, 0x0B⟩

/-- R66, SET_FAN: its words, and for every F and every state the next state: FANCODE = (1 + F) mod 16 above the old
MODECODE, FR7 recomputed, response OK 0x00, everything else unchanged; the rule's example. -/
def Obligations.SetFanWritesLevelPlusOne : Prop :=
  (∀ w : CmdWord, w.extractLsb' 26 6 = 0b001000#6 → decode w = .command (.setFan (w.extractLsb' 8 8))) ∧
  (∀ (f : Byte) (s : State),
    exec (.setFan f) s =
      .next (answered s (summed { s.fr with fanMode := fanModeByte f.toNat s.fr.fanMode.toNat }) 0x00 none)) ∧
  Leaves (.setFan 2) ref ⟨0x01, 0x34, 0x30, 0x00, 0x00, 0x30, 0x00, 0x0E⟩

/-- R67, SET_MODE: its words, and for every M and every state the next state: MODECODE = M mod 16 below the old FANCODE, FR7
recomputed, response OK 0x00, everything else unchanged; the rule's example. -/
def Obligations.SetModeWritesLowNibble : Prop :=
  (∀ w : CmdWord, w.extractLsb' 26 6 = 0b001100#6 → decode w = .command (.setMode (w.extractLsb' 0 8))) ∧
  (∀ (m : Byte) (s : State),
    exec (.setMode m) s =
      .next (answered s
        (summed { s.fr with fanMode := BitVec.ofNat 8 (s.fr.fanMode.toNat / 16 * 16 + m.toNat % 16) }) 0x00 none)) ∧
  Leaves (.setMode 0) ref ⟨0x01, 0x10, 0x30, 0x00, 0x00, 0x30, 0x00, 0x08⟩

/-- R68, SET_POWER: its words, and for both P and every state the next state: PWRCODE 0x3 or 0xC above the old low nibble,
FR7 recomputed, response OK 0x00, everything else unchanged; SET_POWER 0 never makes the off-frame; the rule's examples. -/
def Obligations.SetPowerWritesPowerCode : Prop :=
  (∀ w : CmdWord, w.extractLsb' 26 6 = 0b010000#6 → decode w = .command (.setPower (w.getLsbD 25))) ∧
  (∀ (p : Bool) (s : State),
    exec (.setPower p) s = .next (answered s (summed { s.fr with power := powerByte p s.fr.power }) 0x00 none)) ∧
  (∀ s : State, ∃ u, exec (.setPower false) s = .next u ∧ u.fr ≠ off) ∧
  Leaves (.setPower false) ref ⟨0x01, 0x14, 0x30, 0x00, 0x00, 0xC0, 0x00, 0x9C⟩ ∧
  Leaves (.setPower true) off ref

/-- R69, SET_SWING: its words, and for both S and every state the next state: SWINGBITS 11 or 00 above the old FR6[5:0], FR7
recomputed, response OK 0x00, everything else unchanged; the rule's example. -/
def Obligations.SetSwingKeepsLowSixBits : Prop :=
  (∀ w : CmdWord, w.extractLsb' 26 6 = 0b010100#6 → decode w = .command (.setSwing (w.getLsbD 24))) ∧
  (∀ (sw : Bool) (s : State),
    exec (.setSwing sw) s = .next (answered s (summed { s.fr with swing := swingByte sw s.fr.swing }) 0x00 none)) ∧
  Leaves (.setSwing true) ref ⟨0x01, 0x14, 0x30, 0x00, 0x00, 0x30, 0xC0, 0x18⟩

/-- R70, POWER_OFF: its words, and for every state the next state: the literal off-frame whatever the frame was, FR7 = 0x15
although the formula gives 0x9C, response OK 0x00, everything else unchanged. -/
def Obligations.PowerOffWritesLiteralFrame : Prop :=
  (∀ w : CmdWord, w.extractLsb' 26 6 = 0b011000#6 → decode w = .command .powerOff) ∧
  (∀ s : State, exec .powerOff s = .next (answered s ⟨0x01, 0x14, 0x30, 0x00, 0x00, 0xC0, 0x00, 0x15⟩ 0x00 none)) ∧
  checksum off = 0x9C

/-- R71, POWER_ON: its words, and for all operands and every state the next state: FR2 = 2T, FR1 from F and M, SWINGBITS from
S, PWRCODE 0x3 iff ON_SETS_POWER, FR7 recomputed, response OK 0x00, everything else unchanged; the rule's examples; and the
setters it is made of, run one after another in ANY order, leave the same frame. -/
def Obligations.PowerOnSetsUserFields : Prop :=
  (∀ w : CmdWord, w.extractLsb' 26 6 = 0b011100#6 →
    decode w = .command (.powerOn (w.extractLsb' 0 8) (w.extractLsb' 8 8) (w.extractLsb' 16 8) (w.getLsbD 24))) ∧
  (∀ (m f t : Byte) (sw : Bool) (s : State),
    exec (.powerOn m f t sw) s = .next (answered s (onFrame s.params.onSetsPower m f t sw s.fr) 0x00 none)) ∧
  (∀ s : State, s.fr = ref → ∃ u, exec (.powerOn 1 2 24 false) s = .next u ∧
    u.fr = ⟨0x01, 0x31, 0x30, 0x00, 0x00, 0x30, 0x00, 0x0B⟩) ∧
  (∀ s : State, s.fr = off → ∃ u, exec (.powerOn 1 2 24 false) s = .next u ∧
    u.fr = if s.params.onSetsPower then ⟨0x01, 0x31, 0x30, 0x00, 0x00, 0x30, 0x00, 0x0B⟩
      else ⟨0x01, 0x31, 0x30, 0x00, 0x00, 0xC0, 0x00, 0x9B⟩) ∧
  (∀ (m f t : Byte) (sw : Bool) (s : State) (is : List Instr), is.Perm (settersOf s.params.onSetsPower m f t sw) →
    ∃ u v, exec (.powerOn m f t sw) s = .next u ∧ execAll is s = .next v ∧ u.fr = v.fr)

/-- R72, CHECKSUM: its words, and for every state the next state: only the response OK CS(FR) is new, FR7 is not written; in
every reachable state but Off the value returned is FR7; the rule's examples. -/
def Obligations.ChecksumQueryStoresNothing : Prop :=
  (∀ w : CmdWord, w.extractLsb' 26 6 = 0b100000#6 → decode w = .command .checksum) ∧
  (∀ s : State, exec .checksum s = .next (answered s s.fr (checksum s.fr) none)) ∧
  (∀ (p : Params) (s : State), p.Admissible → Reachable p s → s.fr ≠ off → checksum s.fr = s.fr.csum) ∧
  checksum off = 0x9C ∧ checksum ref = 0x0C

/-- R82, ENCODE: its words, and for every state the next state: only the response OK 0x00 with the frame's waveform is new; in
the Off state the waveform carries the stored 0x15; no later step changes a waveform already returned
(in the record of responses, log 4); the rule's example. -/
def Obligations.EncodeReturnsWaveform : Prop :=
  (∀ w : CmdWord, w.extractLsb' 26 6 = 0b100100#6 → decode w = .command .encode) ∧
  (∀ s : State, exec .encode s = .next (answered s s.fr 0x00 (some (enc s.fr)))) ∧
  (∀ s : State, ∃ u, step s = .next u ∧ s.respLog <+: u.respLog) ∧
  waveByte (enc off) 0 7 = 0x15 ∧ waveByte (enc off) 1 7 = 0x15 ∧
  (enc off).toList.take 6 = [8000, 4000, 1618, 545, 545, 1618]

/-- R87 and R89, SEND: its words, and for all operands and every state the next state: the off-frame when P = 0 whatever the
other operands are, POWER_ON's frame when P = 1; one hand-off of that frame's waveform at 38 kHz; response OK 0x01; everything
else unchanged. That the step ends takes the Transmitter's completion as its premise (R106; log 7). -/
def Obligations.SendUpdatesEncodesHandsOver : Prop :=
  (∀ w : CmdWord, w.extractLsb' 26 6 = 0b101000#6 →
    decode w = .command
      (.send (w.getLsbD 25) (w.extractLsb' 0 8) (w.extractLsb' 8 8) (w.extractLsb' 16 8) (w.getLsbD 24))) ∧
  (∀ (m f t : Byte) (sw : Bool) (s : State), exec (.send false m f t sw) s = .next (handedOver s off)) ∧
  (∀ (m f t : Byte) (sw : Bool) (s : State),
    exec (.send true m f t sw) s = .next (handedOver s (onFrame s.params.onSetsPower m f t sw s.fr))) ∧
  Leaves (.send true 1 2 24 false) ref ⟨0x01, 0x31, 0x30, 0x00, 0x00, 0x30, 0x00, 0x0B⟩

/-- R18: every command completes, and each bit of the frame outside its row of the write matrix is unchanged; an illegal word
writes no bit; a reset writes every byte. -/
def Obligations.WriteMatrixBoundsEveryCommand : Prop :=
  (∀ (i : Instr) (s : State), ∃ u, exec i s = .next u ∧
    ∀ k : Fin 8,
      frameByte u.fr k &&& frameByte (keptBits s.params.onSetsPower i) k =
        frameByte s.fr k &&& frameByte (keptBits s.params.onSetsPower i) k) ∧
  (∀ (s : State) (w : CmdWord) (rest : List CmdWord) (r : IllegalReason), Takes s w rest → decode w = .illegal r →
    ∃ u, step s = .next u ∧ u.fr = s.fr) ∧
  (∀ s : State, s.resetIn = .asserted → ∃ u, step s = .next u ∧ u.fr = s.params.resetFrame)

/-- R93 and R95 (and R27's counts): every command completes from every state with exactly one response, status
OK; the data is 0x00 but for CHECKSUM's checksum and SEND's 0x01; the wave is absent but for ENCODE's; an accepted illegal word gets the one response ILLEGAL 0x00. -/
def Obligations.EveryCommandAnswersOnce : Prop :=
  (∀ (i : Instr) (s : State), ∃ u data wave, exec i s = .next u ∧ u.respLog = s.respLog ++ [⟨.ok, data, wave⟩] ∧
    (i = .checksum → data = checksum s.fr) ∧
    (isSend i = true → data = 0x01) ∧
    (i ≠ .checksum → isSend i = false → data = 0x00) ∧
    (i = .encode → wave = some (enc s.fr)) ∧
    (i ≠ .encode → wave = none)) ∧
  (∀ (s : State) (w : CmdWord) (rest : List CmdWord) (r : IllegalReason), Takes s w rest → decode w = .illegal r →
    ∃ u, step s = .next u ∧ u.respLog = s.respLog ++ [⟨.illegal, 0x00, none⟩]) ∧
  statusCode .ok = 0 ∧ statusCode .illegal = 1 ∧ (∀ st : Status, st = .ok ∨ st = .illegal)

/-! ### The checksum -/

/-- R60: CS(FR) is the exact formula in integers, reduced modulo 256 once at the end. -/
def Obligations.ChecksumIsExactFormula : Prop :=
  ∀ f : Frame,
    ((checksum f).toNat : Int) =
      (((f.marker.toNat + f.fanMode.toNat + f.temp2.toNat + f.rsv3.toNat + f.rsv4.toNat + f.power.toNat
          + f.swing.toNat : Nat) : Int)
        - (15 * (3 + f.temp2.toNat / 2 / 8) + f.fanMode.toNat / 16 * 15
            + (if f.swing.getLsbD 6 || f.swing.getLsbD 7 then 180 else 0) : Nat)) % 256

/-- R61 (a) to (e): temp/8 is FR2[7:4]; the folded formula; `sub` lies in 45..675, both ends attained, and truncating `sum` and
`sub` first, or the exact integers, gives the same byte; FR0, FR3, FR4 and FR5 enter as they are; the two swing bits add 12. -/
def Obligations.ChecksumArithmeticLaws : Prop :=
  (∀ f : Frame, f.temp2.toNat / 2 / 8 = (f.temp2.extractLsb' 4 4).toNat) ∧
  (∀ f : Frame, checksum f =
    f.marker + f.fanMode + f.temp2 + f.rsv3 + f.rsv4 + f.power + f.swing
      - 15 * (3 + (f.temp2.extractLsb' 4 4).setWidth 8 + (f.fanMode.extractLsb' 4 4).setWidth 8)
      - (if swingBits f = 0 then 0 else 180)) ∧
  (∀ f : Frame, 45 ≤ checksumSub f ∧ checksumSub f ≤ 675) ∧
  (∃ f : Frame, checksumSub f = 45) ∧ (∃ f : Frame, checksumSub f = 675) ∧
  (∀ f : Frame, checksum f = checksumSum f - BitVec.ofNat 8 (checksumSub f)) ∧
  (∀ f : Frame, checksum f =
    BitVec.ofInt 8 (((((frameBytes f).take 7).map BitVec.toNat).sum : Int) - (checksumSub f : Int))) ∧
  (∀ (f : Frame) (d : Byte),
    checksum { f with marker := f.marker + d } = checksum f + d ∧
    checksum { f with rsv3 := f.rsv3 + d } = checksum f + d ∧
    checksum { f with rsv4 := f.rsv4 + d } = checksum f + d ∧
    checksum { f with power := f.power + d } = checksum f + d) ∧
  (∀ f : Frame, swingBits f = 0 → checksum { f with swing := f.swing ||| 0xC0#8 } = checksum f + 12)

/-- R62: two frames that agree on FR0 to FR6 have one checksum, whatever FR7 holds. -/
def Obligations.ChecksumNeverReadsFR7 : Prop :=
  ∀ f g : Frame, (∀ k : Fin 8, k ≠ 7 → frameByte f k = frameByte g k) → checksum f = checksum g

/-- R74: the formula gives 0x9C for the off-frame, whose FR7 is 0x15. -/
def Obligations.OffFrameChecksumIsNotFormula : Prop :=
  checksum offFrame = 0x9C ∧ offFrame.csum = 0x15 ∧ checksumSum offFrame = 0x05 ∧ checksumSub offFrame = 105

/-- R64: the state a command leaves depends on T only mod 128, on F only mod 16 and on M only mod 16. -/
def Obligations.OperandsCountOnlyByResidue : Prop :=
  ∀ (t t' f f' m m' : Byte), t.toNat % 128 = t'.toNat % 128 → f.toNat % 16 = f'.toNat % 16 →
    m.toNat % 16 = m'.toNat % 16 → ∀ (sw p : Bool) (s : State), ∃ u1 u2 u3 u4 u5,
      (exec (.setTemp t) s = .next u1 ∧ exec (.setTemp t') s = .next u1) ∧
      (exec (.setFan f) s = .next u2 ∧ exec (.setFan f') s = .next u2) ∧
      (exec (.setMode m) s = .next u3 ∧ exec (.setMode m') s = .next u3) ∧
      (exec (.powerOn m f t sw) s = .next u4 ∧ exec (.powerOn m' f' t' sw) s = .next u4) ∧
      (exec (.send p m f t sw) s = .next u5 ∧ exec (.send p m' f' t' sw) s = .next u5)

/-- R55 and R9: a host's integers, negative ones too, reach the fields through `trunc8`, and the fields then hold 2c mod 256,
(1 + level) mod 16 and mode mod 16. -/
def Obligations.HostIntegersWrapIntoFields : Prop :=
  (∀ x : Int, ((trunc8 x).toNat : Int) = x % 256) ∧
  (∀ (celsius level mode : Int) (sw : Bool) (s : State), ∃ u,
    exec (.powerOn (trunc8 mode) (trunc8 level) (trunc8 celsius) sw) s = .next u ∧
    ((u.fr.temp2.toNat : Int) = (2 * celsius) % 256) ∧
    (((fanCode u.fr).toNat : Int) = (1 + level) % 16) ∧
    (((modeCode u.fr).toNat : Int) = mode % 16))

/-! ### Encoding -/

/-- For every command, decoding its word gives it back with every operand. -/
def Obligations.DecodeOfEncodeIsTheCommand : Prop := ∀ i : Instr, i.wf = true → decode (encode i) = .command i

/-- R50 and R57: the other direction: a word that decodes to a command is that command's word but for the ignored fields,
which the encoder writes as zero. -/
def Obligations.EncodeOfDecodeClearsIgnoredBits : Prop :=
  ∀ (w : CmdWord) (i : Instr), decode w = .command i → encode i = w &&& usedBits (opcodeNumber i)

/-- R50: fields an opcode does not use are ignored: clearing them changes nothing; SEND with P = 0 ignores M, F, T and S too;
and bits 31..26 alone select the opcode (mask 0xFC000000, match OPC << 28). -/
def Obligations.IgnoredFieldsChangeNothing : Prop :=
  (∀ w : CmdWord, decode w = decode (w &&& usedBits (w.toNat / 2 ^ 28))) ∧
  (∀ (m f t m' f' t' : Byte) (sw sw' : Bool) (s : State), ∃ u,
    exec (.send false m f t sw) s = .next u ∧ exec (.send false m' f' t' sw') s = .next u) ∧
  (∀ (w : CmdWord) (n : Nat), 1 ≤ n → n ≤ 10 →
    ((∃ i, decode w = .command i ∧ opcodeNumber i = n) ↔ w &&& 0xFC000000#32 = BitVec.ofNat 32 n <<< 28))

/-- R48, R49 and R54: the decoder by arithmetic on the word: RSV first, then OPC, each field at its place, unsigned, unscaled;
the all-zero word is no command. -/
def Obligations.DecoderFollowsOpcodeMap : Prop :=
  (∀ w : CmdWord,
    let n := w.toNat
    let t : Byte := BitVec.ofNat 8 (n / 2 ^ 16 % 256)
    let f : Byte := BitVec.ofNat 8 (n / 2 ^ 8 % 256)
    let m : Byte := BitVec.ofNat 8 (n % 256)
    let p : Bool := n / 2 ^ 25 % 2 == 1
    let s : Bool := n / 2 ^ 24 % 2 == 1
    (n / 2 ^ 26 % 4 ≠ 0 → ∃ r, decode w = .illegal r) ∧
    (n / 2 ^ 26 % 4 = 0 →
      (n / 2 ^ 28 = 0x0 → ∃ r, decode w = .illegal r) ∧
      (n / 2 ^ 28 = 0x1 → decode w = .command (.setTemp t)) ∧
      (n / 2 ^ 28 = 0x2 → decode w = .command (.setFan f)) ∧
      (n / 2 ^ 28 = 0x3 → decode w = .command (.setMode m)) ∧
      (n / 2 ^ 28 = 0x4 → decode w = .command (.setPower p)) ∧
      (n / 2 ^ 28 = 0x5 → decode w = .command (.setSwing s)) ∧
      (n / 2 ^ 28 = 0x6 → decode w = .command .powerOff) ∧
      (n / 2 ^ 28 = 0x7 → decode w = .command (.powerOn m f t s)) ∧
      (n / 2 ^ 28 = 0x8 → decode w = .command .checksum) ∧
      (n / 2 ^ 28 = 0x9 → decode w = .command .encode) ∧
      (n / 2 ^ 28 = 0xA → decode w = .command (.send p m f t s)) ∧
      (0xB ≤ n / 2 ^ 28 → ∃ r, decode w = .illegal r))) ∧
  (∃ r, decode 0x00000000 = .illegal r)

/-- R53: exactly the words with OPC 0x0 or 0xB..0xF, or RSV not 00, are illegal; every other word is a
command, whatever its operand fields hold. -/
def Obligations.IllegalWordsAreTheReservedOnes : Prop :=
  ∀ w : CmdWord,
    ((∃ r, decode w = .illegal r) ↔
      (w.toNat / 2 ^ 28 = 0 ∨ 0xB ≤ w.toNat / 2 ^ 28 ∨ w.toNat / 2 ^ 26 % 4 ≠ 0)) ∧
    ((∃ i, decode w = .command i) ↔
      (1 ≤ w.toNat / 2 ^ 28 ∧ w.toNat / 2 ^ 28 ≤ 0xA ∧ w.toNat / 2 ^ 26 % 4 = 0))

/-- R59: the encoding examples, written out: each text line assembles to its word, the commands' words decode to them, and
the two illegal words do not decode. -/
def Obligations.EncodingExamplesHold : Prop :=
  assembleLine "SET_TEMP 24".toList = some 0x10180000 ∧ assembleLine "SET_FAN 2".toList = some 0x20000200 ∧
  assembleLine "SET_MODE 1".toList = some 0x30000001 ∧ assembleLine "SET_POWER 1".toList = some 0x42000000 ∧
  assembleLine "SET_POWER 0".toList = some 0x40000000 ∧ assembleLine "SET_SWING 1".toList = some 0x51000000 ∧
  assembleLine "POWER_OFF".toList = some 0x60000000 ∧ assembleLine "POWER_ON 1, 2, 24, 0".toList = some 0x70180201 ∧
  assembleLine "POWER_ON 2, 1, 22, 1".toList = some 0x71160102 ∧ assembleLine "CHECKSUM".toList = some 0x80000000 ∧
  assembleLine "ENCODE".toList = some 0x90000000 ∧ assembleLine "SEND 1, 1, 2, 24, 0".toList = some 0xA2180201 ∧
  assembleLine "SEND 0, 1, 2, 24, 1".toList = some 0xA1180201 ∧
  assembleLine ".word 0x00000000".toList = some 0x00000000 ∧ assembleLine ".word 0x14180000".toList = some 0x14180000 ∧
  decode 0x10180000 = .command (.setTemp 24) ∧ decode 0x20000200 = .command (.setFan 2) ∧
  decode 0x30000001 = .command (.setMode 1) ∧ decode 0x42000000 = .command (.setPower true) ∧
  decode 0x40000000 = .command (.setPower false) ∧ decode 0x51000000 = .command (.setSwing true) ∧
  decode 0x60000000 = .command .powerOff ∧ decode 0x70180201 = .command (.powerOn 1 2 24 false) ∧
  decode 0x71160102 = .command (.powerOn 2 1 22 true) ∧ decode 0x80000000 = .command .checksum ∧
  decode 0x90000000 = .command .encode ∧ decode 0xA2180201 = .command (.send true 1 2 24 false) ∧
  decode 0xA1180201 = .command (.send false 1 2 24 true) ∧
  decode 0x00000000 = .illegal .reservedOpcode ∧ decode 0x14180000 = .illegal .reservedBits

/-- R57's table: the assembler gives each statement its word, by shifts, exactly when every operand fits its field. The last
clause, that `.word` is rejected at and above 2^32, is the model's choice (log 12): R57 only says the 32-bit word verbatim. -/
def Obligations.AssemblerFollowsWordTable : Prop :=
  ∀ p m f t s w : Nat,
    (assemble (.setTemp t) = if t < 256 then some (BitVec.ofNat 32 (0x1 <<< 28 + t <<< 16)) else none) ∧
    (assemble (.setFan f) = if f < 256 then some (BitVec.ofNat 32 (0x2 <<< 28 + f <<< 8)) else none) ∧
    (assemble (.setMode m) = if m < 256 then some (BitVec.ofNat 32 (0x3 <<< 28 + m)) else none) ∧
    (assemble (.setPower p) = if p < 2 then some (BitVec.ofNat 32 (0x4 <<< 28 + p <<< 25)) else none) ∧
    (assemble (.setSwing s) = if s < 2 then some (BitVec.ofNat 32 (0x5 <<< 28 + s <<< 24)) else none) ∧
    assemble .powerOff = some 0x60000000 ∧
    (assemble (.powerOn m f t s) = if m < 256 ∧ f < 256 ∧ t < 256 ∧ s < 2 then
      some (BitVec.ofNat 32 (0x7 <<< 28 + s <<< 24 + t <<< 16 + f <<< 8 + m)) else none) ∧
    assemble .checksum = some 0x80000000 ∧
    assemble .encode = some 0x90000000 ∧
    (assemble (.send p m f t s) = if p < 2 ∧ m < 256 ∧ f < 256 ∧ t < 256 ∧ s < 2 then
      some (BitVec.ofNat 32 (0xA <<< 28 + p <<< 25 + s <<< 24 + t <<< 16 + f <<< 8 + m)) else none) ∧
    (assemble (.word w) = if w < 2 ^ 32 then some (BitVec.ofNat 32 w) else none)

/-- R58: the four pseudo-instructions and their expansions. -/
def Obligations.PseudoInstructionsExpand : Prop :=
  assemble .sendOff = assemble (.send 0 0 0 0 0) ∧ assemble .sendOff = some 0xA0000000 ∧
  (∀ m f t s : Nat, assemble (.sendOn m f t s) = assemble (.send 1 m f t s)) ∧
  assemble .swingOn = assemble (.setSwing 1) ∧ assemble .swingOn = some 0x51000000 ∧
  assemble .swingOff = assemble (.setSwing 0) ∧ assemble .swingOff = some 0x50000000

/-! ### The waveform -/

/-- R78 and R79: the loop form and the table by position are one waveform, for every frame and every position. -/
def Obligations.WaveformMatchesSymbolTable : Prop :=
  ∀ (f : Frame) (d : Fin 264), (enc f)[d].toNat = symbolDuration f (d.val / 2) (d.val % 2 == 1)

/-- R77: the pulse ROM. -/
def Obligations.PulseRomHoldsFivePairs : Prop :=
  markOf .hdr = 8000 ∧ spaceOf .hdr = 4000 ∧ markOf .one = 1618 ∧ spaceOf .one = 545 ∧ markOf .zero = 545 ∧
  spaceOf .zero = 1618 ∧ markOf .gap = 1618 ∧ spaceOf .gap = 31000 ∧ markOf .trail = 1618 ∧ spaceOf .trail = 1618

/-- R83: the header, gap and trailer values at their positions, and 31000, 8000 and 4000 nowhere else. -/
def Obligations.FixedPositionsAreUnique : Prop :=
  ∀ f : Frame,
    ((enc f)[0] = 8000 ∧ (enc f)[1] = 4000 ∧ (enc f)[130] = 1618 ∧ (enc f)[131] = 31000 ∧ (enc f)[132] = 8000 ∧
      (enc f)[133] = 4000 ∧ (enc f)[262] = 1618 ∧ (enc f)[263] = 1618) ∧
    ∀ d : Fin 264,
      ((enc f)[d] = 31000 ↔ d = 131) ∧ ((enc f)[d] = 8000 ↔ d = 0 ∨ d = 132) ∧ ((enc f)[d] = 4000 ↔ d = 1 ∨ d = 133)

/-- R84: reading either repeat back gives the frame exactly; bit by bit: FR[k/8][k mod 8] is set iff the pair at
2 + 132r + 2k is (1618, 545); the header and gap pairs read as 0. -/
def Obligations.WaveformRoundTripsToFrame : Prop :=
  (∀ (f : Frame) (r : Fin 2), waveFrame (enc f) r = f) ∧
  (∀ (f : Frame) (r : Fin 2) (k : Fin 64),
    ((frameByte f ⟨k.val / 8, by omega⟩).getLsbD (k.val % 8) = true ↔
      (enc f)[2 + 132 * r.val + 2 * k.val]'(by omega) = 1618 ∧ (enc f)[2 + 132 * r.val + 2 * k.val + 1]'(by omega) = 545)) ∧
  (∀ f : Frame, pulseBit (enc f)[0] (enc f)[1] = false ∧ pulseBit (enc f)[130] (enc f)[131] = false ∧
    pulseBit (enc f)[132] (enc f)[133] = false)

/-- R85 and R86: the durations of every frame sum to 336718 us, one repeat's data to 138432 us, every data symbol to 2163 us
whatever its bit, and every duration, in the ROM and in a waveform, is at most 31000. -/
def Obligations.EveryWaveformLastsTheSame : Prop :=
  (∀ f : Frame, ((enc f).toList.map BitVec.toNat).sum = 336718) ∧
  (∀ (f : Frame) (r : Fin 2), ((((enc f).toList.drop (2 + 132 * r.val)).take 128).map BitVec.toNat).sum = 138432) ∧
  (∀ b : Bool, (markOf (bitPulse b)).toNat + (spaceOf (bitPulse b)).toNat = 2163) ∧
  (∀ k : Pulse, (markOf k).toNat ≤ 31000 ∧ (spaceOf k).toNat ≤ 31000) ∧
  (∀ (f : Frame) (d : Fin 264), (enc f)[d].toNat ≤ 31000)

/-- R81: two frames' waveforms agree at the positions that carry no data; each repeat carries FR7 as stored. -/
def Obligations.WaveformDependsOnDataPositionsOnly : Prop :=
  (∀ f g : Frame, ∀ d : Fin 264, d.val ∈ [0, 1, 130, 131, 132, 133, 262, 263] → (enc f)[d] = (enc g)[d]) ∧
  (∀ f : Frame, (enc f).toList.length = 264 ∧ waveByte (enc f) 0 7 = f.csum ∧ waveByte (enc f) 1 7 = f.csum)

/-! ### The frame across commands -/

/-- R41: every command completes, twice in a row leaves FR as once, CHECKSUM and ENCODE change neither FR nor TxLog, and a
second SEND appends a second entry. -/
def Obligations.CommandsAreIdempotentOnFR : Prop :=
  ∀ (i : Instr) (s : State), ∃ u v, exec i s = .next u ∧ exec i u = .next v ∧ v.fr = u.fr ∧
    (i = .checksum ∨ i = .encode → u.fr = s.fr ∧ u.txlog = s.txlog) ∧
    (isSend i = true → v.txlog = s.txlog ++ [⟨enc u.fr, 38⟩, ⟨enc u.fr, 38⟩])

/-- R76: any two different setters commute on FR (FR7 the checksum of the final bytes either way), each setter is idempotent on FR, a mutator followed by POWER_OFF leaves the
off-frame, and POWER_ON's frame does not depend on the prior FR1, FR2 or FR6[7:6]. -/
def Obligations.SettersAreIndependent : Prop :=
  (∀ (i j : Instr) (s : State), isSetter i = true → isSetter j = true → opcodeNumber i ≠ opcodeNumber j →
    ∃ u v, execAll [i, j] s = .next u ∧ execAll [j, i] s = .next v ∧ u.fr = v.fr ∧ u.fr.csum = checksum u.fr) ∧
  (∀ (i : Instr) (s : State), isSetter i = true →
    ∃ u v, execAll [i] s = .next u ∧ execAll [i, i] s = .next v ∧ u.fr = v.fr) ∧
  (∀ (i : Instr) (s : State), isMutator i = true → ∃ u, execAll [i, .powerOff] s = .next u ∧ u.fr = off) ∧
  (∀ (m f t : Byte) (sw : Bool) (s s' : State), s.params = s'.params →
    (∃ a b c : Byte, s'.fr = { s.fr with fanMode := a, temp2 := b, swing := c } ∧
      c.extractLsb' 0 6 = s.fr.swing.extractLsb' 0 6) →
    ∃ u v, exec (.powerOn m f t sw) s = .next u ∧ exec (.powerOn m f t sw) s' = .next v ∧ u.fr = v.fr)

/-- R90: after SEND 0, whatever came before, SEND 1 leaves a frame of its arguments and ON_SETS_POWER only. -/
def Obligations.SendAfterOffForgetsHistory : Prop :=
  ∀ (m0 f0 t0 m f t : Byte) (sw0 sw : Bool) (s : State), ∃ u,
    execAll [.send false m0 f0 t0 sw0, .send true m f t sw] s = .next u ∧
    u.fr = summed ⟨0x01, fanModeByte f.toNat m.toNat, BitVec.ofNat 8 (2 * t.toNat), 0x00, 0x00,
      if s.params.onSetsPower then 0x30 else 0xC0, if sw then 0xC0 else 0x00, 0x00⟩

/-- R110: from two states with one ON_SETS_POWER but any two frames, an off command and then the same POWER_ON or SEND 1 leave
the same frame: nothing of the frame before the off can be learnt. -/
def Obligations.OffThenOnHidesThePast : Prop :=
  ∀ (off1 off2 : Instr) (m f t : Byte) (sw viaSend : Bool) (s s' : State),
    isOffCommand off1 = true → isOffCommand off2 = true → s.params.onSetsPower = s'.params.onSetsPower →
    ∃ u v,
      execAll [off1, if viaSend then .send true m f t sw else .powerOn m f t sw] s = .next u ∧
      execAll [off2, if viaSend then .send true m f t sw else .powerOn m f t sw] s' = .next v ∧
      u.fr = v.fr

/-- R91: SEND 1 without an off keeps FR0, FR3, FR4 and FR6[5:0], and FR5 (all of it, or its low nibble under ON_SETS_POWER). -/
def Obligations.SendOnKeepsHistory : Prop :=
  ∀ (m f t : Byte) (sw : Bool) (s : State), ∃ u, exec (.send true m f t sw) s = .next u ∧
    u.fr.marker = s.fr.marker ∧ u.fr.rsv3 = s.fr.rsv3 ∧ u.fr.rsv4 = s.fr.rsv4 ∧ swingLow u.fr = swingLow s.fr ∧
    (s.params.onSetsPower = false → u.fr.power = s.fr.power) ∧
    (s.params.onSetsPower = true → pwrCode u.fr = 0x3 ∧ powerLow u.fr = powerLow s.fr)

/-- R24 and R75: Off is exactly the off-frame and On the rest; POWER_OFF and SEND 0 enter Off from any state; POWER_ON,
SEND 1 and every setter lead to On from any state, the off-frame included, with FR7 the formula's; SET_FAN 0 and SET_MODE 4 on the off-frame leave 0x9C there. -/
def Obligations.OffIsLeftByEveryMutator : Prop :=
  (∀ f : Frame, (isOff f = true ↔ f = off) ∧ isOn f = !isOff f) ∧
  (∀ (i : Instr) (s : State), isOffCommand i = true → ∃ u, exec i s = .next u ∧ isOff u.fr = true) ∧
  (∀ (i : Instr) (s : State), isMutator i = true →
    ∃ u, exec i s = .next u ∧ isOn u.fr = true ∧ u.fr.csum = checksum u.fr) ∧
  (∀ (m f t : Byte) (sw : Bool) (s : State), ∃ u, exec (.send true m f t sw) s = .next u ∧ isOn u.fr = true) ∧
  Leaves (.setFan 0) off ⟨0x01, 0x14, 0x30, 0x00, 0x00, 0xC0, 0x00, 0x9C⟩ ∧
  Leaves (.setMode 4) off ⟨0x01, 0x14, 0x30, 0x00, 0x00, 0xC0, 0x00, 0x9C⟩

/-- R118: after an off, SEND 1 or POWER_ON leaves FR5 = 0xC0 when ON_SETS_POWER is false, and that is the frame SEND hands over;
SET_POWER 1 before SEND 1 makes it 0x30; when ON_SETS_POWER is true no extra command is needed. -/
def Obligations.PowerCodeAfterAnOff : Prop :=
  ∀ (i : Instr) (m f t : Byte) (sw : Bool) (s : State), isOffCommand i = true → ∃ u1 u2 u3,
    execAll [i, .send true m f t sw] s = .next u1 ∧
    execAll [i, .powerOn m f t sw] s = .next u2 ∧
    execAll [i, .setPower true, .send true m f t sw] s = .next u3 ∧
    u1.fr.power = (if s.params.onSetsPower then 0x30 else 0xC0) ∧
    u2.fr.power = (if s.params.onSetsPower then 0x30 else 0xC0) ∧
    u3.fr.power = 0x30 ∧
    u1.txlog.getLast? = some ⟨enc u1.fr, 38⟩ ∧ u3.txlog.getLast? = some ⟨enc u3.fr, 38⟩

/-- R33: FR2 is even after SET_TEMP, POWER_ON and SEND, and SWINGBITS are 00 or 11 after SET_SWING, POWER_ON, POWER_OFF and
SEND, from any state; a step can leave an odd FR2, or swing bits 01 or 10, only by keeping what was there or by a reset; the
checksum's swing term is on when either bit is set. -/
def Obligations.ParityAndSwingPairAfterWrites : Prop :=
  (∀ (p sw : Bool) (m f t : Byte) (s : State),
    (∀ i ∈ [Instr.setTemp t, .powerOn m f t sw, .send p m f t sw],
      ∃ u, exec i s = .next u ∧ u.fr.temp2.toNat % 2 = 0) ∧
    (∀ i ∈ [Instr.setSwing sw, .powerOn m f t sw, .powerOff, .send p m f t sw],
      ∃ u, exec i s = .next u ∧ (swingBits u.fr = 0b00 ∨ swingBits u.fr = 0b11))) ∧
  (∀ s : State, ∃ u, step s = .next u ∧
    (u.fr.temp2.toNat % 2 = 1 → u.fr.temp2 = s.fr.temp2 ∨ u.fr = s.params.resetFrame) ∧
    (swingBits u.fr = 0b01 ∨ swingBits u.fr = 0b10 →
      swingBits u.fr = swingBits s.fr ∨ u.fr = s.params.resetFrame)) ∧
  (∀ b : Byte, swingOn b = (b.getLsbD 6 || b.getLsbD 7))

/-- R116: POWER_OFF and SEND 0 clear FR6[5:0], every other command keeps them, and in a reachable state nonzero FR6[5:0] are the
reset frame's. -/
def Obligations.StaleSwingBitsComeFromReset : Prop :=
  (∀ (i : Instr) (s : State), ∃ u, exec i s = .next u ∧
    swingLow u.fr = if isOffCommand i then 0 else swingLow s.fr) ∧
  (∀ (p : Params) (s : State), p.Admissible → Reachable p s → swingLow s.fr ≠ 0 →
    swingLow s.fr = swingLow p.resetFrame)

/-! ### The step -/

/-- A step runs the decoded command: the oldest word at the port leaves it and the step is `exec` of the command it decodes
to, for every reset input but an asserted one, but for a SEND that reset will cut short (ResetDuringSendDropsResponse). The port
and the reset input are the model's form of those inputs (log 2, 5). -/
def Obligations.StepRunsTheDecodedCommand : Prop :=
  ∀ (s : State) (w : CmdWord) (rest : List CmdWord) (i : Instr), Takes s w rest → decode w = .command i →
    (s.resetIn = .idle ∨ isSend i = false) → step s = exec i { s with port := rest }

/-- R94 with R51 and R52: an accepted illegal word leaves the port and changes nothing but the response record, which gets
the one ILLEGAL response (code 1) with data 0x00 and no wave. -/
def Obligations.IllegalWordChangesNothing : Prop :=
  (∀ (s : State) (w : CmdWord) (rest : List CmdWord), Takes s w rest →
    (w.toNat / 2 ^ 28 = 0 ∨ 0xB ≤ w.toNat / 2 ^ 28 ∨ w.toNat / 2 ^ 26 % 4 ≠ 0) →
    step s = .next { s with port := rest, respLog := s.respLog ++ [⟨.illegal, 0x00, none⟩] }) ∧
  statusCode .illegal = 1

/-- After R107: launch is `{ fr = P_RESET_FRAME, txlog = [] }`; a reset step writes P_RESET_FRAME into FR in one commit, leaves TxLog as
it is, delivers no response and leaves TFE ready: the next word presented is the next one taken. That last clause rests on the
model's reading of R98, that reset empties the port (log 6), and on its choice that one assertion is one reset (log 5). -/
def Obligations.ResetWritesFrameKeepsTxLog : Prop :=
  (∀ p : Params, (State.launch p).fr = p.resetFrame ∧ (State.launch p).txlog = []) ∧
  (∀ s : State, s.resetIn = .asserted → ∃ u, step s = .next u ∧ u.fr = s.params.resetFrame ∧ u.txlog = s.txlog ∧
    u.respLog = s.respLog ∧ ∀ w, Takes (u.present w) w [])

/-- R108: reset during a SEND's Transmitter wait: the SEND's frame update and its TxLog entry are made, no response is
delivered, and the next step is the reset. Every other command keeps its response, and the reset still waits for a SEND (the input's form is the model's, log 5). -/
def Obligations.ResetDuringSendDropsResponse : Prop :=
  (∀ (s : State) (w : CmdWord) (rest : List CmdWord) (i : Instr), s.resetIn = .duringSend → s.port = w :: rest →
    decode w = .command i → isSend i = true →
    ∃ c u v, exec i s = .next c ∧ step s = .next u ∧ u.fr = c.fr ∧ u.txlog = c.txlog ∧ u.respLog = s.respLog ∧
      step u = .next v ∧ v.fr = s.params.resetFrame ∧ v.txlog = c.txlog ∧ v.respLog = s.respLog) ∧
  (∀ (s : State) (w : CmdWord) (rest : List CmdWord) (i : Instr), s.resetIn = .duringSend → s.port = w :: rest →
    decode w = .command i → isSend i = false →
    ∃ c u, exec i s = .next c ∧ step s = .next u ∧ u.fr = c.fr ∧ u.respLog = c.respLog ∧ u.resetIn = .duringSend)

/-- R98 (1): when reset is asserted, no word at the port is executed or answered: the step is the same whatever the port holds,
and the words are gone after it (the model's reading, log 6). -/
def Obligations.ResetOutranksPresentedWords : Prop :=
  ∀ (s : State) (ws : List CmdWord), s.resetIn = .asserted →
    ∃ u, step s = .next u ∧ step { s with port := ws } = .next u ∧ u.txlog = s.txlog ∧ u.respLog = s.respLog ∧ u.port = []

/-- R43 and R112: a word presented behind others changes nothing in the step that takes an earlier one, and is still waiting
behind the rest after it: held, not dropped, not reordered (the port is the model's form, log 2). -/
def Obligations.LaterWordsWaitInOrder : Prop :=
  ∀ (s : State) (w : CmdWord), s.resetIn ≠ .asserted → s.port ≠ [] →
    ∃ u, step s = .next u ∧ step (s.present w) = .next (u.present w) ∧ u.port = s.port.tail

/-- R27 and R43 over any number of words: with reset idle, as many steps as words presented take them all, and deliver one
response for each, in order. That each step ends takes the Transmitter's completion as its premise (R106; log 7);
the port and the record of responses are the model's form (log 2, 4). -/
def Obligations.EveryPresentedWordIsAnswered : Prop :=
  ∀ (s : State), s.resetIn = .idle →
    ∃ (u : State) (rs : List Response), Host.Core.run Sys2Proof.core s.port.length s = .next u ∧ u.port = [] ∧
      u.resetIn = .idle ∧ u.respLog = s.respLog ++ rs ∧ rs.map Response.status = s.port.map (fun w => statusOf (decode w))

/-- R93: no state stops the machine: every step answers a next state (with nothing presented the state itself, the model's
choice, log 3), and the parameters never change. -/
def Obligations.EveryStepAnswersNext : Prop :=
  ∀ s : State, ∃ u, step s = .next u ∧ u.params = s.params ∧ (s.resetIn ≠ .asserted → s.port = [] → u = s)

/-- R26: a step appends to TxLog exactly when it takes a SEND, and then exactly the waveform of the frame it leaves (R92), at
38 kHz; otherwise TxLog is as it was. -/
def Obligations.OnlySendAppendsToTxLog : Prop :=
  (∀ p : Params, (State.launch p).txlog = []) ∧
  ∀ s : State, ∃ u, step s = .next u ∧
    ((∃ w rest i, Takes s w rest ∧ decode w = .command i ∧ isSend i = true) →
      u.txlog = s.txlog ++ [⟨enc u.fr, 38⟩]) ∧
    ((¬ ∃ w rest i, Takes s w rest ∧ decode w = .command i ∧ isSend i = true) → u.txlog = s.txlog)

/-- R35 and R28: FRAME_Q[8i+7 : 8i] = FR[i], and the off-frame's example. -/
def Obligations.FrameQPacksLittleEndian : Prop :=
  (∀ (s : State) (i : Fin 8), (s.frameQ).extractLsb' (8 * i.val) 8 = frameByte s.fr i) ∧
  (∀ s : State, s.fr = off → s.frameQ = 0x1500C00000301401)

/-! ### Invariants -/

/-- R31: from any state with FR0 = 0x01 and FR3 = FR4 = 0x00, with an admissible P_RESET_FRAME, every step keeps them; so they
hold in every reachable state. -/
def Obligations.ConstantBytesStayConstant : Prop :=
  (∀ s : State, s.params.Admissible → FixedBytes s.fr → ∃ u, step s = .next u ∧ FixedBytes u.fr) ∧
  (∀ (p : Params) (s : State), p.Admissible → Reachable p s → FixedBytes s.fr)

/-- R32: from any state with FR7 = CS(FR) or FR = OFF_FRAME, with an admissible P_RESET_FRAME, every step keeps that; every mutator
ends with FR7 = CS(FR); so it holds in every reachable state. -/
def Obligations.ChecksumHoldsOrFrameIsOff : Prop :=
  (∀ s : State, s.params.Admissible → (s.fr.csum = checksum s.fr ∨ s.fr = off) →
    ∃ u, step s = .next u ∧ (u.fr.csum = checksum u.fr ∨ u.fr = off)) ∧
  (∀ (i : Instr) (s : State), isMutator i = true → ∃ u, exec i s = .next u ∧ u.fr.csum = checksum u.fr) ∧
  (∀ (p : Params) (s : State), p.Admissible → Reachable p s → s.fr.csum = checksum s.fr ∨ s.fr = off)

/-- The whole invariant is kept by every step, from every state that has it. -/
def Obligations.StepKeepsInvariant : Prop := ∀ s u : State, Inv s → step s = .next u → Inv u

/-- The invariant holds at launch with any admissible parameters, and at `State.reset` (the reference parameters, log 1). -/
def Obligations.LaunchHasInvariant : Prop :=
  (∀ p : Params, p.Admissible → Inv (State.launch p)) ∧ Params.reference.Admissible ∧ Inv State.reset

/-- The invariant in every reachable state: whatever the host of the block presents and whenever it resets, the invariant
holds, for every admissible P_RESET_FRAME and both values of ON_SETS_POWER; and the parameters are those of launch (what the
host can do is the model's form of the inputs, log 2, 5). -/
def Obligations.ReachableStatesHaveInvariant : Prop :=
  ∀ p : Params, p.Admissible → ∀ s : State, Reachable p s → Inv s ∧ s.params = p

/-- What the host of the block does between two steps keeps the invariant, and a reset already asserted stays asserted through
it until its step (R43, R107, R108; that a pending reset cannot be withdrawn is the model's choice, log 5). -/
def Obligations.HostMovesKeepInvariantAndPendingReset : Prop :=
  ∀ (s : State) (w : CmdWord), ∀ t ∈ [s.present w, s.assertReset, s.assertResetDuringSend],
    (Inv s → Inv t) ∧ (s.resetIn = .asserted → t.resetIn = .asserted) ∧ t.fr = s.fr ∧ t.txlog = s.txlog ∧
      t.respLog = s.respLog ∧ t.params = s.params
end

