-- ==== Sys2Proof/Laws/State.lean ====
section
/-! SUPPORT. One lemma per field per update of the state and of the frame, each true by unfolding once. -/

namespace Sys2Proof.Machine

/-! ### State.setFrame -/

@[simp] theorem State.setFrame_fr (s : State) (f : Frame) :
    (s.setFrame f).fr = f := rfl
@[simp] theorem State.setFrame_txlog (s : State) (f : Frame) :
    (s.setFrame f).txlog = s.txlog := rfl
@[simp] theorem State.setFrame_port (s : State) (f : Frame) :
    (s.setFrame f).port = s.port := rfl
@[simp] theorem State.setFrame_resetIn (s : State) (f : Frame) :
    (s.setFrame f).resetIn = s.resetIn := rfl
@[simp] theorem State.setFrame_respLog (s : State) (f : Frame) :
    (s.setFrame f).respLog = s.respLog := rfl
@[simp] theorem State.setFrame_params (s : State) (f : Frame) :
    (s.setFrame f).params = s.params := rfl

/-! ### State.respond -/

@[simp] theorem State.respond_fr (s : State) (st : Status) (d : Byte) (w : Option Wave) :
    (s.respond st d w).fr = s.fr := rfl
@[simp] theorem State.respond_txlog (s : State) (st : Status) (d : Byte) (w : Option Wave) :
    (s.respond st d w).txlog = s.txlog := rfl
@[simp] theorem State.respond_port (s : State) (st : Status) (d : Byte) (w : Option Wave) :
    (s.respond st d w).port = s.port := rfl
@[simp] theorem State.respond_resetIn (s : State) (st : Status) (d : Byte) (w : Option Wave) :
    (s.respond st d w).resetIn = s.resetIn := rfl
@[simp] theorem State.respond_respLog (s : State) (st : Status) (d : Byte) (w : Option Wave) :
    (s.respond st d w).respLog = s.respLog ++ [⟨st, d, w⟩] := rfl
@[simp] theorem State.respond_params (s : State) (st : Status) (d : Byte) (w : Option Wave) :
    (s.respond st d w).params = s.params := rfl

/-! ### State.transmit -/

@[simp] theorem State.transmit_fr (s : State) (w : Wave) :
    (s.transmit w).fr = s.fr := rfl
@[simp] theorem State.transmit_txlog (s : State) (w : Wave) :
    (s.transmit w).txlog = s.txlog ++ [⟨w, 38⟩] := rfl
@[simp] theorem State.transmit_port (s : State) (w : Wave) :
    (s.transmit w).port = s.port := rfl
@[simp] theorem State.transmit_resetIn (s : State) (w : Wave) :
    (s.transmit w).resetIn = s.resetIn := rfl
@[simp] theorem State.transmit_respLog (s : State) (w : Wave) :
    (s.transmit w).respLog = s.respLog := rfl
@[simp] theorem State.transmit_params (s : State) (w : Wave) :
    (s.transmit w).params = s.params := rfl

/-! ### State.raiseIllegal -/

@[simp] theorem State.raiseIllegal_fr (s : State) :
    (s.raiseIllegal).fr = s.fr := rfl
@[simp] theorem State.raiseIllegal_txlog (s : State) :
    (s.raiseIllegal).txlog = s.txlog := rfl
@[simp] theorem State.raiseIllegal_port (s : State) :
    (s.raiseIllegal).port = s.port := rfl
@[simp] theorem State.raiseIllegal_resetIn (s : State) :
    (s.raiseIllegal).resetIn = s.resetIn := rfl
@[simp] theorem State.raiseIllegal_respLog (s : State) :
    (s.raiseIllegal).respLog = s.respLog ++ [⟨.illegal, 0x00, none⟩] := rfl
@[simp] theorem State.raiseIllegal_params (s : State) :
    (s.raiseIllegal).params = s.params := rfl

/-! ### State.takeReset -/

@[simp] theorem State.takeReset_fr (s : State) :
    (s.takeReset).fr = s.params.resetFrame := rfl
@[simp] theorem State.takeReset_txlog (s : State) :
    (s.takeReset).txlog = s.txlog := rfl
@[simp] theorem State.takeReset_port (s : State) :
    (s.takeReset).port = [] := rfl
@[simp] theorem State.takeReset_resetIn (s : State) :
    (s.takeReset).resetIn = .idle := rfl
@[simp] theorem State.takeReset_respLog (s : State) :
    (s.takeReset).respLog = s.respLog := rfl
@[simp] theorem State.takeReset_params (s : State) :
    (s.takeReset).params = s.params := rfl

/-! ### State.cutShort -/

@[simp] theorem State.cutShort_fr (b : List Response) (s : State) :
    (State.cutShort b s).fr = s.fr := rfl
@[simp] theorem State.cutShort_txlog (b : List Response) (s : State) :
    (State.cutShort b s).txlog = s.txlog := rfl
@[simp] theorem State.cutShort_port (b : List Response) (s : State) :
    (State.cutShort b s).port = s.port := rfl
@[simp] theorem State.cutShort_resetIn (b : List Response) (s : State) :
    (State.cutShort b s).resetIn = .asserted := rfl
@[simp] theorem State.cutShort_respLog (b : List Response) (s : State) :
    (State.cutShort b s).respLog = b := rfl
@[simp] theorem State.cutShort_params (b : List Response) (s : State) :
    (State.cutShort b s).params = s.params := rfl

/-! ### State.present -/

@[simp] theorem State.present_fr (s : State) (w : CmdWord) :
    (s.present w).fr = s.fr := rfl
@[simp] theorem State.present_txlog (s : State) (w : CmdWord) :
    (s.present w).txlog = s.txlog := rfl
@[simp] theorem State.present_port (s : State) (w : CmdWord) :
    (s.present w).port = s.port ++ [w] := rfl
@[simp] theorem State.present_resetIn (s : State) (w : CmdWord) :
    (s.present w).resetIn = s.resetIn := rfl
@[simp] theorem State.present_respLog (s : State) (w : CmdWord) :
    (s.present w).respLog = s.respLog := rfl
@[simp] theorem State.present_params (s : State) (w : CmdWord) :
    (s.present w).params = s.params := rfl

/-! ### State.assertReset -/

@[simp] theorem State.assertReset_fr (s : State) :
    (s.assertReset).fr = s.fr := rfl
@[simp] theorem State.assertReset_txlog (s : State) :
    (s.assertReset).txlog = s.txlog := rfl
@[simp] theorem State.assertReset_port (s : State) :
    (s.assertReset).port = s.port := rfl
@[simp] theorem State.assertReset_resetIn (s : State) :
    (s.assertReset).resetIn = .asserted := rfl
@[simp] theorem State.assertReset_respLog (s : State) :
    (s.assertReset).respLog = s.respLog := rfl
@[simp] theorem State.assertReset_params (s : State) :
    (s.assertReset).params = s.params := rfl

/-! ### State.assertResetDuringSend -/

@[simp] theorem State.assertResetDuringSend_fr (s : State) :
    (s.assertResetDuringSend).fr = s.fr := rfl
@[simp] theorem State.assertResetDuringSend_txlog (s : State) :
    (s.assertResetDuringSend).txlog = s.txlog := rfl
@[simp] theorem State.assertResetDuringSend_port (s : State) :
    (s.assertResetDuringSend).port = s.port := rfl
@[simp] theorem State.assertResetDuringSend_resetIn (s : State) :
    (s.assertResetDuringSend).resetIn = if s.resetIn = .asserted then .asserted else .duringSend := rfl
/-- A reset already asserted is not withdrawn (log 5). -/
theorem State.assertResetDuringSend_of_asserted {s : State} (h : s.resetIn = .asserted) :
    s.assertResetDuringSend = s := by
  cases s; cases h; rfl
/-- With no reset asserted, the next SEND is the one to be cut short. -/
theorem State.assertResetDuringSend_of_not_asserted {s : State} (h : s.resetIn ≠ .asserted) :
    s.assertResetDuringSend = { s with resetIn := .duringSend } := by
  simp only [State.assertResetDuringSend, if_neg h]
@[simp] theorem State.assertResetDuringSend_respLog (s : State) :
    (s.assertResetDuringSend).respLog = s.respLog := rfl
@[simp] theorem State.assertResetDuringSend_params (s : State) :
    (s.assertResetDuringSend).params = s.params := rfl

/-! ### State.withNextWord -/

@[simp] theorem State.withNextWord_fr (s : State) (w : CmdWord) :
    (s.withNextWord w).fr = s.fr := rfl
@[simp] theorem State.withNextWord_txlog (s : State) (w : CmdWord) :
    (s.withNextWord w).txlog = s.txlog := rfl
@[simp] theorem State.withNextWord_port (s : State) (w : CmdWord) :
    (s.withNextWord w).port = w :: s.port := rfl
@[simp] theorem State.withNextWord_resetIn (s : State) (w : CmdWord) :
    (s.withNextWord w).resetIn = .idle := rfl
@[simp] theorem State.withNextWord_respLog (s : State) (w : CmdWord) :
    (s.withNextWord w).respLog = s.respLog := rfl
@[simp] theorem State.withNextWord_params (s : State) (w : CmdWord) :
    (s.withNextWord w).params = s.params := rfl

/-! ### State.launch -/

@[simp] theorem State.launch_fr (p : Params) : (State.launch p).fr = p.resetFrame := rfl
@[simp] theorem State.launch_txlog (p : Params) : (State.launch p).txlog = [] := rfl
@[simp] theorem State.launch_port (p : Params) : (State.launch p).port = [] := rfl
@[simp] theorem State.launch_resetIn (p : Params) : (State.launch p).resetIn = .idle := rfl
@[simp] theorem State.launch_respLog (p : Params) : (State.launch p).respLog = [] := rfl
@[simp] theorem State.launch_params (p : Params) : (State.launch p).params = p := rfl

/-! ### recompute -/

@[simp] theorem recompute_marker (f : Frame) : (recompute f).marker = f.marker := rfl
@[simp] theorem recompute_fanMode (f : Frame) : (recompute f).fanMode = f.fanMode := rfl
@[simp] theorem recompute_temp2 (f : Frame) : (recompute f).temp2 = f.temp2 := rfl
@[simp] theorem recompute_rsv3 (f : Frame) : (recompute f).rsv3 = f.rsv3 := rfl
@[simp] theorem recompute_rsv4 (f : Frame) : (recompute f).rsv4 = f.rsv4 := rfl
@[simp] theorem recompute_power (f : Frame) : (recompute f).power = f.power := rfl
@[simp] theorem recompute_swing (f : Frame) : (recompute f).swing = f.swing := rfl
@[simp] theorem recompute_csum (f : Frame) : (recompute f).csum = checksum f := rfl

/-- The checksum never reads FR7 (R62). -/
@[simp] theorem checksum_recompute (f : Frame) : checksum (recompute f) = checksum f := rfl

end Sys2Proof.Machine
end

