-- ==== Sys2Proof/Laws/Operands.lean ====
section
/-! SUPPORT. What each operand form leaves in its byte, as arithmetic and field by field. -/

namespace Sys2Proof.Machine

/-! ### Truncation -/

/-- `trunc8(x) = x mod 256`, the non-negative residue, for every integer (R9). -/
theorem trunc8_toNat (x : Int) : ((trunc8 x).toNat : Int) = x % 256 := by
  simp [trunc8, BitVec.toNat_ofInt]; omega

/-- On a natural number it is the residue mod 256. -/
@[simp] theorem trunc8_natCast (n : Nat) : trunc8 (n : Int) = BitVec.ofNat 8 n := by
  simp [trunc8]

/-- Equal residues truncate to equal bytes. -/
theorem trunc8_congr {x y : Int} (h : x % 256 = y % 256) : trunc8 x = trunc8 y := by
  apply BitVec.eq_of_toNat_eq
  have hx := trunc8_toNat x
  have hy := trunc8_toNat y
  omega

/-! ### Masks on one byte -/

theorem and_0F_toNat (b : Byte) : (b &&& 0x0F#8).toNat = b.toNat % 16 := by
  rw [BitVec.toNat_and]; exact Nat.and_two_pow_sub_one_eq_mod b.toNat 4

theorem and_F0_toNat (b : Byte) : (b &&& 0xF0#8).toNat = b.toNat / 16 * 16 := by
  revert b; decide

theorem and_3F_toNat (b : Byte) : (b &&& 0x3F#8).toNat = b.toNat % 64 := by
  rw [BitVec.toNat_and]; exact Nat.and_two_pow_sub_one_eq_mod b.toNat 6

/-- A multiple of 16 or-ed with a nibble is their sum. -/
theorem shift4_or (a b : Nat) (h : b < 16) : (a <<< 4) ||| b = a * 16 + b := by
  rw [← Nat.shiftLeft_add_eq_or_of_lt (i := 4) h, Nat.shiftLeft_eq]

/-! ### The operand forms as arithmetic -/

theorem scaleTemp_toNat (t : Byte) : (scaleTemp t).toNat = 2 * t.toNat % 256 := by
  have h := trunc8_toNat (2 * t.toNat)
  simp only [scaleTemp]; omega

theorem insertFan_toNat (f b : Byte) :
    (insertFan f b).toNat = (1 + f.toNat) % 16 * 16 + b.toNat % 16 := by
  rw [insertFan, trunc8_natCast, and_0F_toNat, shift4_or _ _ (Nat.mod_lt _ (by decide)), BitVec.toNat_ofNat]
  omega

theorem packFanMode_toNat (f m : Byte) :
    (packFanMode f m).toNat = (1 + f.toNat) % 16 * 16 + m.toNat % 16 := by
  rw [packFanMode, trunc8_natCast, and_0F_toNat, shift4_or _ _ (Nat.mod_lt _ (by decide)), BitVec.toNat_ofNat]
  omega

theorem insertMode_toNat (m b : Byte) :
    (insertMode m b).toNat = b.toNat / 16 * 16 + m.toNat % 16 := by
  rw [insertMode, BitVec.toNat_or, and_F0_toNat, and_0F_toNat, ← Nat.shiftLeft_eq _ 4,
    shift4_or _ _ (Nat.mod_lt _ (by decide)), Nat.shiftLeft_eq]

theorem insertPower_toNat (p : Bool) (b : Byte) :
    (insertPower p b).toNat = (if p then 0x30 else 0xC0) + b.toNat % 16 := by
  have h : ∀ n : Nat, n * 16 < 256 → (n * 16) ||| (b.toNat % 16) = n * 16 + b.toNat % 16 := fun n _ => by
    rw [← Nat.shiftLeft_eq _ 4, shift4_or _ _ (Nat.mod_lt _ (by decide)), Nat.shiftLeft_eq]
  cases p <;> rw [insertPower, BitVec.toNat_or, and_0F_toNat]
  · exact h 12 (by decide)
  · exact h 3 (by decide)

theorem insertSwing_toNat (s : Bool) (b : Byte) :
    (insertSwing s b).toNat = (if s then 0xC0 else 0) + b.toNat % 64 := by
  cases s
  · rw [insertSwing, if_neg (by decide), and_3F_toNat, if_neg (by decide), Nat.zero_add]
  · revert b; decide

/-- POWER_ON's FR1 is SET_FAN's and SET_MODE's together, whatever FR1 was (R71). -/
theorem packFanMode_eq (f m b : Byte) : packFanMode f m = insertMode m (insertFan f b) := by
  apply BitVec.eq_of_toNat_eq
  rw [packFanMode_toNat, insertMode_toNat, insertFan_toNat]; omega

/-! ### Fields of a byte as arithmetic -/

theorem low4_toNat (b : Byte) : (b.extractLsb' 0 4).toNat = b.toNat % 16 := by
  simp [BitVec.extractLsb'_toNat]

theorem high4_toNat (b : Byte) : (b.extractLsb' 4 4).toNat = b.toNat / 16 := by
  have := b.isLt
  simp [BitVec.extractLsb'_toNat, Nat.shiftRight_eq_div_pow]; omega

theorem low6_toNat (b : Byte) : (b.extractLsb' 0 6).toNat = b.toNat % 64 := by
  simp [BitVec.extractLsb'_toNat]

theorem high2_toNat (b : Byte) : (b.extractLsb' 6 2).toNat = b.toNat / 64 := by
  have := b.isLt
  simp [BitVec.extractLsb'_toNat, Nat.shiftRight_eq_div_pow]; omega

/-! ### FRAME_Q as a number -/

/-- A byte appended below. -/
theorem append_byte_toNat {n : Nat} (a : BitVec n) (b : Byte) : (a ++ b).toNat = a.toNat * 2 ^ 8 + b.toNat := by
  rw [BitVec.toNat_append, ← Nat.shiftLeft_add_eq_or_of_lt b.isLt, Nat.shiftLeft_eq]

/-- The eight bytes, FR0 least significant (R35). -/
theorem packFrameQ_toNat (f : Frame) :
    (packFrameQ f).toNat =
      f.csum.toNat * 2 ^ 56 + f.swing.toNat * 2 ^ 48 + f.power.toNat * 2 ^ 40 + f.rsv4.toNat * 2 ^ 32 +
        f.rsv3.toNat * 2 ^ 24 + f.temp2.toNat * 2 ^ 16 + f.fanMode.toNat * 2 ^ 8 + f.marker.toNat := by
  simp only [packFrameQ, append_byte_toNat]; omega

/-! ### Which bits an operand form keeps, and what it puts in the others -/

theorem insertFan_low (f b : Byte) : (insertFan f b).extractLsb' 0 4 = b.extractLsb' 0 4 := by
  apply BitVec.eq_of_toNat_eq; rw [low4_toNat, low4_toNat, insertFan_toNat]; omega

theorem insertMode_high (m b : Byte) : (insertMode m b).extractLsb' 4 4 = b.extractLsb' 4 4 := by
  apply BitVec.eq_of_toNat_eq; rw [high4_toNat, high4_toNat, insertMode_toNat]; omega

theorem insertPower_low (p : Bool) (b : Byte) : (insertPower p b).extractLsb' 0 4 = b.extractLsb' 0 4 := by
  apply BitVec.eq_of_toNat_eq; rw [low4_toNat, low4_toNat, insertPower_toNat]; split <;> omega

theorem insertPower_high (p : Bool) (b : Byte) :
    (insertPower p b).extractLsb' 4 4 = if p then 0x3 else 0xC := by
  have h : ((insertPower p b).extractLsb' 4 4).toNat = if p then 3 else 12 := by
    rw [high4_toNat, insertPower_toNat]; split <;> omega
  apply BitVec.eq_of_toNat_eq; rw [h]; cases p <;> rfl

theorem insertSwing_low (s : Bool) (b : Byte) : (insertSwing s b).extractLsb' 0 6 = b.extractLsb' 0 6 := by
  apply BitVec.eq_of_toNat_eq; rw [low6_toNat, low6_toNat, insertSwing_toNat]; split <;> omega

theorem insertSwing_high (s : Bool) (b : Byte) :
    (insertSwing s b).extractLsb' 6 2 = if s then 0b11 else 0b00 := by
  have h : ((insertSwing s b).extractLsb' 6 2).toNat = if s then 3 else 0 := by
    rw [high2_toNat, insertSwing_toNat]; split <;> omega
  apply BitVec.eq_of_toNat_eq; rw [h]; cases s <;> rfl

end Sys2Proof.Machine
end

