-- ==== Sys2Proof/Laws/Checksum.lean ====
section
/-! SUPPORT. The checksum as exact arithmetic (40_frame_codec.md R60, R61). -/

namespace Sys2Proof.Machine

/-- The swing term is on iff bit 6 or bit 7 of FR6 is set (R60). -/
theorem swingOn_iff (b : Byte) : swingOn b = decide (64 ≤ b.toNat) := by
  revert b; decide

/-- FANCODE as the checksum extracts it. -/
theorem fan_toNat (b : Byte) : ((b &&& 0xF0#8) >>> 4).toNat = b.toNat / 16 := by
  rw [BitVec.toNat_ushiftRight, and_F0_toNat, Nat.shiftRight_eq_div_pow]; omega

/-- `sub` with its divisions folded: `temp/8 = FR2/16` (R61). -/
theorem checksumSub_eq (f : Frame) :
    checksumSub f = 15 * (3 + f.temp2.toNat / 16 + f.fanMode.toNat / 16) +
      (if swingOn f.swing then 180 else 0) := by
  simp only [checksumSub, fan_toNat]; omega

/-- The seven bytes added exactly. -/
def exactSum (f : Frame) : Nat :=
  f.marker.toNat + f.fanMode.toNat + f.temp2.toNat + f.rsv3.toNat + f.rsv4.toNat + f.power.toNat + f.swing.toNat

theorem checksumSum_toNat (f : Frame) : (checksumSum f).toNat = exactSum f % 256 := by
  simp only [checksumSum, exactSum, BitVec.toNat_add]; omega

/-- The checksum is the exact difference reduced once at the end (R61). -/
theorem checksum_toNat (f : Frame) :
    ((checksum f).toNat : Int) = ((exactSum f : Int) - checksumSub f) % 256 := by
  rw [checksum, trunc8_toNat, checksumSum_toNat]; push_cast; omega

/-- The checksum as a difference of two truncated bytes (R61 (c)). -/
theorem checksum_eq_sub (f : Frame) : checksum f = checksumSum f - BitVec.ofNat 8 (checksumSub f) := by
  apply BitVec.eq_of_toNat_eq
  have h := checksum_toNat f
  have h2 := checksumSum_toNat f
  rw [BitVec.toNat_sub, h2, BitVec.toNat_ofNat]
  omega

/-- `CS(OFF_FRAME)` is not the literal 0x15 the off-frame holds (R74). -/
theorem offFrame_csum_ne : offFrame.csum ≠ checksum offFrame := by decide

/-- A frame whose FR7 is CS(FR) is not the off-frame (R24, R74). -/
theorem summed_ne_offFrame {f : Frame} (h : f.csum = checksum f) : f ≠ offFrame := by
  rintro rfl; exact offFrame_csum_ne h

end Sys2Proof.Machine
end

