-- ==== Sys2Proof/Laws/Decode.lean ====
section
/-! SUPPORT. The fields of a packed word, and what the decoder answers by opcode (30_encoding.md R47, R49, R54). -/

namespace Sys2Proof

section Packed
variable (opc : BitVec 4) (p s : Bool) (t f m : Byte)

/-- The packed word as a number: the fields at the places of R47. -/
theorem packWord_toNat :
    (packWord opc p s t f m).toNat =
      opc.toNat * 2 ^ 28 + p.toNat * 2 ^ 25 + s.toNat * 2 ^ 24 + t.toNat * 2 ^ 16 + f.toNat * 2 ^ 8 + m.toNat := by
  have ht := t.isLt; have hf := f.isLt; have hm := m.isLt
  have hp := p.toNat_lt; have hs := s.toNat_lt
  simp only [packWord, BitVec.toNat_append, ← Nat.shiftLeft_add_eq_or_of_lt ht, ← Nat.shiftLeft_add_eq_or_of_lt hf,
    ← Nat.shiftLeft_add_eq_or_of_lt hm, BitVec.toNat_ofBool]
  rw [← Nat.shiftLeft_add_eq_or_of_lt (b := s.toNat) (i := 1) (by omega),
    ← Nat.shiftLeft_add_eq_or_of_lt (b := p.toNat) (i := 1) (by omega)]
  simp only [Nat.shiftLeft_eq, BitVec.toNat_ofNat, Nat.zero_mod, Nat.or_zero]
  omega

/-- The packed word from its number. -/
theorem packWord_eq_ofNat :
    packWord opc p s t f m = BitVec.ofNat 32
      (opc.toNat * 2 ^ 28 + p.toNat * 2 ^ 25 + s.toNat * 2 ^ 24 + t.toNat * 2 ^ 16 + f.toNat * 2 ^ 8 + m.toNat) := by
  rw [← packWord_toNat opc p s t f m, BitVec.ofNat_toNat, BitVec.setWidth_eq]

@[simp] theorem opcOf_packWord : opcOf (packWord opc p s t f m) = opc := by
  apply BitVec.eq_of_toNat_eq
  have := opc.isLt; have := t.isLt; have := f.isLt; have := m.isLt; have := p.toNat_lt; have := s.toNat_lt
  rw [opcOf, BitVec.extractLsb'_toNat, packWord_toNat, Nat.shiftRight_eq_div_pow]; omega

@[simp] theorem rsvOf_packWord : rsvOf (packWord opc p s t f m) = 0b00#2 := by
  apply BitVec.eq_of_toNat_eq
  have := opc.isLt; have := t.isLt; have := f.isLt; have := m.isLt; have := p.toNat_lt; have := s.toNat_lt
  rw [rsvOf, BitVec.extractLsb'_toNat, packWord_toNat, Nat.shiftRight_eq_div_pow]; simp; omega

@[simp] theorem tOf_packWord : tOf (packWord opc p s t f m) = t := by
  apply BitVec.eq_of_toNat_eq
  have := opc.isLt; have := t.isLt; have := f.isLt; have := m.isLt; have := p.toNat_lt; have := s.toNat_lt
  rw [tOf, BitVec.extractLsb'_toNat, packWord_toNat, Nat.shiftRight_eq_div_pow]; omega

@[simp] theorem fOf_packWord : fOf (packWord opc p s t f m) = f := by
  apply BitVec.eq_of_toNat_eq
  have := opc.isLt; have := t.isLt; have := f.isLt; have := m.isLt; have := p.toNat_lt; have := s.toNat_lt
  rw [fOf, BitVec.extractLsb'_toNat, packWord_toNat, Nat.shiftRight_eq_div_pow]; omega

@[simp] theorem mOf_packWord : mOf (packWord opc p s t f m) = m := by
  apply BitVec.eq_of_toNat_eq
  have := opc.isLt; have := t.isLt; have := f.isLt; have := m.isLt; have := p.toNat_lt; have := s.toNat_lt
  rw [mOf, BitVec.extractLsb'_toNat, packWord_toNat, Nat.shiftRight_eq_div_pow]; omega

@[simp] theorem pOf_packWord : pOf (packWord opc p s t f m) = p := by
  have := opc.isLt; have := t.isLt; have := f.isLt; have := m.isLt; have := p.toNat_lt; have := s.toNat_lt
  rw [pOf, ← BitVec.testBit_toNat, packWord_toNat, Nat.testBit_eq_decide_div_mod_eq]
  cases p <;> simp <;> omega

@[simp] theorem sOf_packWord : sOf (packWord opc p s t f m) = s := by
  have := opc.isLt; have := t.isLt; have := f.isLt; have := m.isLt; have := p.toNat_lt; have := s.toNat_lt
  rw [sOf, ← BitVec.testBit_toNat, packWord_toNat, Nat.testBit_eq_decide_div_mod_eq]
  cases s <;> simp <;> omega

end Packed

/-! ### The fields of any word -/

/-- OPC as a number. -/
theorem opcOf_toNat (w : CmdWord) : (opcOf w).toNat = w.toNat / 2 ^ 28 := by
  have := w.isLt
  rw [opcOf, BitVec.extractLsb'_toNat, Nat.shiftRight_eq_div_pow]; omega

/-- RSV as a number. -/
theorem rsvOf_toNat (w : CmdWord) : (rsvOf w).toNat = w.toNat / 2 ^ 26 % 4 := by
  rw [rsvOf, BitVec.extractLsb'_toNat, Nat.shiftRight_eq_div_pow]

theorem pOf_toNat (w : CmdWord) : (pOf w).toNat = w.toNat / 2 ^ 25 % 2 := by
  rw [pOf, ← BitVec.testBit_toNat, Nat.toNat_testBit]

theorem sOf_toNat (w : CmdWord) : (sOf w).toNat = w.toNat / 2 ^ 24 % 2 := by
  rw [sOf, ← BitVec.testBit_toNat, Nat.toNat_testBit]

theorem tOf_toNat (w : CmdWord) : (tOf w).toNat = w.toNat / 2 ^ 16 % 256 := by
  rw [tOf, BitVec.extractLsb'_toNat, Nat.shiftRight_eq_div_pow]

theorem fOf_toNat (w : CmdWord) : (fOf w).toNat = w.toNat / 2 ^ 8 % 256 := by
  rw [fOf, BitVec.extractLsb'_toNat, Nat.shiftRight_eq_div_pow]

theorem mOf_toNat (w : CmdWord) : (mOf w).toNat = w.toNat % 256 := by
  rw [mOf, BitVec.extractLsb'_toNat, Nat.shiftRight_eq_div_pow]; omega

/-- A word with RSV = 00 is its fields packed again. -/
theorem packWord_fields {w : CmdWord} (h : rsvOf w = 0b00#2) :
    packWord (opcOf w) (pOf w) (sOf w) (tOf w) (fOf w) (mOf w) = w := by
  apply BitVec.eq_of_toNat_eq
  have hr := rsvOf_toNat w
  rw [h] at hr
  rw [packWord_toNat, opcOf_toNat, pOf_toNat, sOf_toNat, tOf_toNat, fOf_toNat, mOf_toNat]
  simp only [BitVec.toNat_ofNat] at hr; omega

/-! ### The fields of a masked word -/

section Masked
variable (w k : CmdWord)

theorem opcOf_and : opcOf (w &&& k) = opcOf w &&& opcOf k := BitVec.extractLsb'_and
theorem rsvOf_and : rsvOf (w &&& k) = rsvOf w &&& rsvOf k := BitVec.extractLsb'_and
theorem tOf_and : tOf (w &&& k) = tOf w &&& tOf k := BitVec.extractLsb'_and
theorem fOf_and : fOf (w &&& k) = fOf w &&& fOf k := BitVec.extractLsb'_and
theorem mOf_and : mOf (w &&& k) = mOf w &&& mOf k := BitVec.extractLsb'_and
theorem pOf_and : pOf (w &&& k) = (pOf w && pOf k) := BitVec.getLsbD_and
theorem sOf_and : sOf (w &&& k) = (sOf w && sOf k) := BitVec.getLsbD_and

end Masked

/-- The command a decoded word is, by its opcode (R49, R54). -/
theorem decode_command_cases {w : CmdWord} {i : Instr} (h : decode w = .command i) :
    rsvOf w = 0b00#2 ∧
    ((opcOf w = 0x1 ∧ i = .setTemp (tOf w)) ∨ (opcOf w = 0x2 ∧ i = .setFan (fOf w)) ∨
     (opcOf w = 0x3 ∧ i = .setMode (mOf w)) ∨ (opcOf w = 0x4 ∧ i = .setPower (pOf w)) ∨
     (opcOf w = 0x5 ∧ i = .setSwing (sOf w)) ∨ (opcOf w = 0x6 ∧ i = .powerOff) ∨
     (opcOf w = 0x7 ∧ i = .powerOn (mOf w) (fOf w) (tOf w) (sOf w)) ∨ (opcOf w = 0x8 ∧ i = .checksum) ∨
     (opcOf w = 0x9 ∧ i = .encode) ∨
     (opcOf w = 0xA ∧ i = .send (pOf w) (mOf w) (fOf w) (tOf w) (sOf w))) := by
  unfold decode at h
  by_cases hr : rsvOf w = 0b00#2
  · rw [if_pos hr] at h
    refine ⟨hr, ?_⟩
    generalize hm : (opcOf w).toNat = n at h
    have ho : ∀ k : BitVec 4, n = k.toNat → opcOf w = k := fun k hk => BitVec.eq_of_toNat_eq (hm.trans hk)
    split at h <;> cases h
    · simp [ho 0x1 rfl]
    · simp [ho 0x2 rfl]
    · simp [ho 0x3 rfl]
    · simp [ho 0x4 rfl]
    · simp [ho 0x5 rfl]
    · simp [ho 0x6 rfl]
    · simp [ho 0x7 rfl]
    · simp [ho 0x8 rfl]
    · simp [ho 0x9 rfl]
    · simp [ho 0xA rfl]
  · rw [if_neg hr] at h; cases h

end Sys2Proof
end

