-- ==== Sys2Proof/Laws/Exec.lean ====
section
/-! SUPPORT. What each command and a step can do, said once. -/

namespace Sys2Proof.Machine

/-! ### One equation per command -/

theorem exec_setTemp (t : Byte) (s : State) :
    exec (.setTemp t) s =
      .next ((s.setFrame (recompute { s.fr with temp2 := scaleTemp t })).respond .ok 0x00 none) := rfl

theorem exec_setFan (f : Byte) (s : State) :
    exec (.setFan f) s =
      .next ((s.setFrame (recompute { s.fr with fanMode := insertFan f s.fr.fanMode })).respond .ok 0x00 none) := rfl

theorem exec_setMode (m : Byte) (s : State) :
    exec (.setMode m) s =
      .next ((s.setFrame (recompute { s.fr with fanMode := insertMode m s.fr.fanMode })).respond .ok 0x00 none) := rfl

theorem exec_setPower (p : Bool) (s : State) :
    exec (.setPower p) s =
      .next ((s.setFrame (recompute { s.fr with power := insertPower p s.fr.power })).respond .ok 0x00 none) := rfl

theorem exec_setSwing (sw : Bool) (s : State) :
    exec (.setSwing sw) s =
      .next ((s.setFrame (recompute { s.fr with swing := insertSwing sw s.fr.swing })).respond .ok 0x00 none) := rfl

theorem exec_powerOff (s : State) :
    exec .powerOff s = .next ((s.setFrame offFrame).respond .ok 0x00 none) := rfl

theorem exec_powerOn (m f t : Byte) (sw : Bool) (s : State) :
    exec (.powerOn m f t sw) s =
      .next ((s.setFrame (applyPowerOn s.params.onSetsPower m f t sw s.fr)).respond .ok 0x00 none) := rfl

theorem exec_checksum (s : State) : exec .checksum s = .next (s.respond .ok (checksum s.fr) none) := rfl

theorem exec_encode (s : State) : exec .encode s = .next (s.respond .ok 0x00 (some (enc s.fr))) := rfl

theorem exec_send (p : Bool) (m f t : Byte) (sw : Bool) (s : State) :
    exec (.send p m f t sw) s =
      .next (((s.setFrame (sendFrame s.params.onSetsPower p m f t sw s.fr)).transmit
        (enc (sendFrame s.params.onSetsPower p m f t sw s.fr))).respond .ok 0x01 none) := rfl

/-! ### The frame a command leaves -/

/-- The frame each command leaves, apart from everything else it does. -/
def frameAfter (onSetsPower : Bool) (i : Instr) (f : Frame) : Frame :=
  match i with
  | .setTemp t => recompute { f with temp2 := scaleTemp t }
  | .setFan l => recompute { f with fanMode := insertFan l f.fanMode }
  | .setMode m => recompute { f with fanMode := insertMode m f.fanMode }
  | .setPower p => recompute { f with power := insertPower p f.power }
  | .setSwing sw => recompute { f with swing := insertSwing sw f.swing }
  | .powerOff => offFrame
  | .powerOn m l t sw => applyPowerOn onSetsPower m l t sw f
  | .checksum => f
  | .encode => f
  | .send p m l t sw => sendFrame onSetsPower p m l t sw f

/-- The hand-offs a command makes: one for SEND, none for the others (R26). -/
def handOffsOf (i : Instr) (after : Frame) : List HandOff := if isSend i then [⟨enc after, 38⟩] else []

/-- The response of a command (R27). -/
def responseOf (i : Instr) (before : Frame) : Response :=
  match i with
  | .checksum => ⟨.ok, checksum before, none⟩
  | .encode => ⟨.ok, 0x00, some (enc before)⟩
  | .send _ _ _ _ _ => ⟨.ok, 0x01, none⟩
  | .setTemp _ | .setFan _ | .setMode _ | .setPower _ | .setSwing _ | .powerOff | .powerOn _ _ _ _ => ⟨.ok, 0x00, none⟩

/-- All a command can do: a new frame, its hand-offs, its one response, and nothing else. -/
theorem exec_eq (i : Instr) (s : State) :
    exec i s = .next
      { s with
        fr := frameAfter s.params.onSetsPower i s.fr
        txlog := s.txlog ++ handOffsOf i (frameAfter s.params.onSetsPower i s.fr)
        respLog := s.respLog ++ [responseOf i s.fr] } := by
  cases i <;>
    simp only [exec_setTemp, exec_setFan, exec_setMode, exec_setPower, exec_setSwing, exec_powerOff, exec_powerOn,
      exec_checksum, exec_encode, exec_send, frameAfter, handOffsOf, isSend, responseOf, State.setFrame,
      State.respond, State.transmit, carrierKHz, List.append_nil, if_true, if_false, Bool.false_eq_true]

/-- The same, read backwards. -/
theorem exec_next {i : Instr} {s t : State} (h : exec i s = .next t) :
    t = { s with
        fr := frameAfter s.params.onSetsPower i s.fr
        txlog := s.txlog ++ handOffsOf i (frameAfter s.params.onSetsPower i s.fr)
        respLog := s.respLog ++ [responseOf i s.fr] } := by
  rw [exec_eq] at h; exact (Host.Outcome.next.inj h).symm

/-- The frame-writing commands recompute FR7, write the off-frame, or write nothing (R32). -/
theorem frameAfter_cases (b : Bool) (i : Instr) (f : Frame) :
    (frameAfter b i f).csum = checksum (frameAfter b i f) ∨ frameAfter b i f = offFrame ∨ frameAfter b i f = f := by
  cases i <;> simp only [frameAfter, applyPowerOn, sendFrame, applyPowerOff, recompute_csum, checksum_recompute] <;>
    first
      | exact .inl trivial
      | exact .inr (.inl trivial)
      | exact .inr (.inr trivial)
      | skip
  split
  · exact .inl rfl
  · exact .inr (.inl rfl)

/-! ### What a step can do -/

/-- The state a command leaves when its step is whole: cut short by reset or not (R108). -/
theorem runCommand_eq (i : Instr) (s t : State) (h : exec i s = .next t) :
    runCommand i s = .next (if isSend i && s.resetIn == .duringSend then t.cutShort s.respLog else t) := by
  rw [runCommand, h]

theorem step_asserted {s : State} (h : s.resetIn = .asserted) : step s = .next s.takeReset := by
  rw [step, stepOnce, if_pos h]

theorem step_idle {s : State} (h : s.resetIn ≠ .asserted) (hp : s.port = []) : step s = .next s := by
  rw [step, stepOnce, if_neg h, hp]

theorem step_word {s : State} {w : CmdWord} {rest : List CmdWord} (h : s.resetIn ≠ .asserted)
    (hp : s.port = w :: rest) : step s = acceptWord w { s with port := rest } := by
  rw [step, stepOnce, if_neg h, hp]

theorem acceptWord_command {w : CmdWord} {i : Instr} (s : State) (h : decode w = .command i) :
    acceptWord w s = runCommand i s := by rw [acceptWord, h]

theorem acceptWord_illegal {w : CmdWord} {r : IllegalReason} (s : State) (h : decode w = .illegal r) :
    acceptWord w s = .next s.raiseIllegal := by rw [acceptWord, h]

/-- A run that starts with a step to `t` goes on from `t`. -/
theorem run_succ {s t : State} (h : step s = .next t) (k : Nat) :
    Host.Core.run Sys2Proof.core (k + 1) s = Host.Core.run Sys2Proof.core k t := by
  have hs : Sys2Proof.core.step s = .next t := h
  simp only [Host.Core.run, hs]

/-- Everything a step can do: a reset, nothing, an ILLEGAL response, a whole command, or a SEND cut short. -/
theorem step_cases {s t : State} (h : step s = .next t) :
    (s.resetIn = .asserted ∧ t = s.takeReset) ∨
    (s.resetIn ≠ .asserted ∧ s.port = [] ∧ t = s) ∨
    (∃ w rest r, s.resetIn ≠ .asserted ∧ s.port = w :: rest ∧ decode w = .illegal r ∧
      t = { s with port := rest }.raiseIllegal) ∨
    (∃ w rest i u, s.resetIn ≠ .asserted ∧ s.port = w :: rest ∧ decode w = .command i ∧
      exec i { s with port := rest } = .next u ∧
      t = if isSend i && s.resetIn == .duringSend then u.cutShort s.respLog else u) := by
  by_cases ha : s.resetIn = .asserted
  · rw [step_asserted ha] at h; exact .inl ⟨ha, (Host.Outcome.next.inj h).symm⟩
  · cases hp : s.port with
    | nil => rw [step_idle ha hp] at h; exact .inr (.inl ⟨ha, rfl, (Host.Outcome.next.inj h).symm⟩)
    | cons w rest =>
      rw [step_word ha hp] at h
      cases hd : decode w with
      | illegal r =>
        rw [acceptWord_illegal _ hd] at h
        exact .inr (.inr (.inl ⟨w, rest, r, ha, rfl, hd, (Host.Outcome.next.inj h).symm⟩))
      | command i =>
        rw [acceptWord_command _ hd, runCommand_eq i _ _ (exec_eq i _)] at h
        exact .inr (.inr (.inr ⟨w, rest, i, _, ha, rfl, hd, exec_eq i _, (Host.Outcome.next.inj h).symm⟩))

end Sys2Proof.Machine
end

