-- ==== Sys2Proof/Laws/PerInstr.lean ====
section
/-! SUPPORT. The per-instruction family TableRow: each command's word is its row of the opcode table. -/

namespace Sys2Proof.Laws.TableRow

/-- The row's "match" in the opcode table: `OPC << 28` (30_encoding.md R49, R50). -/
def matchOf (i : Instr) : Nat :=
  match i with
  | .setTemp _ => 0x10000000
  | .setFan _ => 0x20000000
  | .setMode _ => 0x30000000
  | .setPower _ => 0x40000000
  | .setSwing _ => 0x50000000
  | .powerOff => 0x60000000
  | .powerOn _ _ _ _ => 0x70000000
  | .checksum => 0x80000000
  | .encode => 0x90000000
  | .send _ _ _ _ _ => 0xA0000000

/-- The command is well formed and its word's bits 31..26 are the row's. -/
def Statement (i : Instr) : Prop := i.wf = true ∧ (encode i).toNat / 2 ^ 26 = matchOf i / 2 ^ 26

/-- Bits 31..26 of a packed word are its opcode and RSV = 00. -/
theorem packWord_high (opc : BitVec 4) (p s : Bool) (t f m : Byte) :
    (packWord opc p s t f m).toNat / 2 ^ 26 = opc.toNat * 4 := by
  have := t.isLt; have := f.isLt; have := m.isLt; have := p.toNat_lt; have := s.toNat_lt
  rw [packWord_toNat]; omega

/-- The row from the packed word. -/
theorem of_packWord {i : Instr} (opc : BitVec 4) (p s : Bool) (t f m : Byte) (hw : i.wf = true)
    (he : Sys2Proof.encode i = packWord opc p s t f m) (hm : matchOf i / 2 ^ 26 = opc.toNat * 4) : Statement i :=
  ⟨hw, by rw [he, hm, packWord_high]⟩

theorem setTemp (t : Byte) : Statement (.setTemp t) := of_packWord _ _ _ _ _ _ rfl rfl (by simp [matchOf])
theorem setFan (f : Byte) : Statement (.setFan f) := of_packWord _ _ _ _ _ _ rfl rfl (by simp [matchOf])
theorem setMode (m : Byte) : Statement (.setMode m) := of_packWord _ _ _ _ _ _ rfl rfl (by simp [matchOf])
theorem setPower (p : Bool) : Statement (.setPower p) := of_packWord _ _ _ _ _ _ rfl rfl (by simp [matchOf])
theorem setSwing (s : Bool) : Statement (.setSwing s) := of_packWord _ _ _ _ _ _ rfl rfl (by simp [matchOf])
theorem powerOff : Statement .powerOff := of_packWord _ _ _ _ _ _ rfl rfl (by simp [matchOf])
theorem powerOn (m f t : Byte) (s : Bool) : Statement (.powerOn m f t s) := of_packWord _ _ _ _ _ _ rfl rfl (by simp [matchOf])
theorem checksum : Statement .checksum := of_packWord _ _ _ _ _ _ rfl rfl (by simp [matchOf])
theorem encode : Statement .encode := of_packWord _ _ _ _ _ _ rfl rfl (by simp [matchOf])
theorem send (p : Bool) (m f t : Byte) (s : Bool) : Statement (.send p m f t s) := of_packWord _ _ _ _ _ _ rfl rfl (by simp [matchOf])

end Sys2Proof.Laws.TableRow
end

