-- ==== Sys2Proof/Laws/Waveform.lean ====
section
/-! SUPPORT. The waveform as a list of 132 symbols, emitted as 264 durations (41_waveform_encoder.md R78, R79). -/

namespace Sys2Proof.Machine

/-- The waveform's durations are the emitted symbols. -/
theorem enc_toList (f : Frame) : (enc f).toList = emit (framePulses f) := rfl

/-- The waveform's length, as a list. -/
theorem enc_toList_length (f : Frame) : (enc f).toList.length = 264 := by simp

/-- The 64 data symbols of one repeat. -/
def dataPulses (f : Frame) : List Pulse := (frameBytes f).flatMap bytePulses

theorem dataPulses_length (f : Frame) : (dataPulses f).length = 64 := rfl

/-- The layout of R78. -/
theorem framePulses_eq (f : Frame) :
    framePulses f = [.hdr] ++ dataPulses f ++ [.gap] ++ [.hdr] ++ dataPulses f ++ [.trail] := by
  simp [framePulses, repeatPulses, dataPulses, List.range_succ]

theorem emit_append (a b : List Pulse) : emit (a ++ b) = emit a ++ emit b := by simp [emit]

/-- A data symbol is ONE or ZERO. -/
theorem dataPulses_mem {f : Frame} {k : Pulse} (h : k ∈ dataPulses f) : k = .one ∨ k = .zero := by
  simp only [dataPulses, List.mem_flatMap, bytePulses, List.mem_map] at h
  obtain ⟨b, -, j, -, rfl⟩ := h
  cases b.getLsbD j <;> simp [bitPulse]

/-- "Every data symbol lasts 2163 us whatever its bit" (R85). -/
theorem bitPulse_time (b : Bool) : (markOf (bitPulse b)).toNat + (spaceOf (bitPulse b)).toNat = 2163 := by
  cases b <;> rfl

/-- The mark of symbol `n` is duration `2n`. -/
theorem emit_mark (ks : List Pulse) (n : Nat) (h : n < ks.length) : (emit ks)[2 * n]? = some (markOf ks[n]) := by
  induction ks generalizing n with
  | nil => simp at h
  | cons k ks ih =>
    cases n with
    | zero => simp [emit]
    | succ n => simpa [emit, Nat.mul_add] using ih n (by simpa using h)

/-- The space of symbol `n` is duration `2n + 1`. -/
theorem emit_space (ks : List Pulse) (n : Nat) (h : n < ks.length) :
    (emit ks)[2 * n + 1]? = some (spaceOf ks[n]) := by
  induction ks generalizing n with
  | nil => simp at h
  | cons k ks ih =>
    cases n with
    | zero => simp [emit]
    | succ n => simpa [emit, Nat.mul_add] using ih n (by simpa using h)

/-- Symbol `n` of a frame's waveform, by R78's table. -/
def pulseAt (f : Frame) (n : Nat) : Pulse :=
  if n = 0 ∨ n = 66 then .hdr
  else if n ≤ 64 then bitPulse ((frameBytes f)[(n - 1) / 8]!.getLsbD ((n - 1) % 8))
  else if n = 65 then .gap
  else if n ≤ 130 then bitPulse ((frameBytes f)[(n - 67) / 8]!.getLsbD ((n - 67) % 8))
  else .trail

/-- The loop form visits the symbols in the order of the table. -/
theorem framePulses_eq_map (f : Frame) : framePulses f = (List.range 132).map (pulseAt f) := by rfl

/-- Duration `d` of an emission is the mark or the space of symbol `d / 2`. -/
theorem emit_getElem (ks : List Pulse) (d : Nat) (h : d < (emit ks).length) :
    (emit ks)[d] =
      if d % 2 = 0 then markOf (ks[d / 2]'(by rw [emit_length] at h; omega))
      else spaceOf (ks[d / 2]'(by rw [emit_length] at h; omega)) := by
  have hl := h
  rw [emit_length] at hl
  have h2 : d / 2 < ks.length := by omega
  split
  · have hm := emit_mark ks (d / 2) h2
    rw [show 2 * (d / 2) = d by omega, List.getElem?_eq_getElem h] at hm
    exact Option.some.inj hm
  · have hs := emit_space ks (d / 2) h2
    rw [show 2 * (d / 2) + 1 = d by omega, List.getElem?_eq_getElem h] at hs
    exact Option.some.inj hs

/-- Every position of the waveform, in terms of its symbol. -/
theorem enc_getElem (f : Frame) (d : Nat) (h : d < 264) :
    (enc f)[d] = if d % 2 = 0 then markOf (pulseAt f (d / 2)) else spaceOf (pulseAt f (d / 2)) := by
  have he : (enc f)[d] = (emit (framePulses f))[d]'(by rw [emit_length, framePulses_length]; omega) := by simp [enc]
  rw [he, emit_getElem]
  simp [framePulses_eq_map]

end Sys2Proof.Machine
end

