-- ==== Sys2Proof/Tests/Slice0.lean ====
section
/-! SUPPORT. The tests: ill-formed terms refused, words written out from the spec's encoding, single steps against the
vectors of 95_test_vectors.md, and a witness for the hypotheses of every statement that has hypotheses. -/

namespace Sys2Proof.Tests

open Sys2Proof.Machine Sys2Proof.Claim

/-! ### WellFormed: each check refuses a term (R57) -/

theorem test_wf_setTemp : (AsmStmt.setTemp 255).wf = true ∧ (AsmStmt.setTemp 256).wf = false := by decide
theorem test_wf_setFan : (AsmStmt.setFan 255).wf = true ∧ (AsmStmt.setFan 256).wf = false := by decide
theorem test_wf_setMode : (AsmStmt.setMode 255).wf = true ∧ (AsmStmt.setMode 256).wf = false := by decide
theorem test_wf_setPower : (AsmStmt.setPower 1).wf = true ∧ (AsmStmt.setPower 2).wf = false := by decide
theorem test_wf_setSwing : (AsmStmt.setSwing 1).wf = true ∧ (AsmStmt.setSwing 2).wf = false := by decide
theorem test_wf_powerOn :
    (AsmStmt.powerOn 255 255 255 1).wf = true ∧ (AsmStmt.powerOn 256 0 0 0).wf = false ∧
    (AsmStmt.powerOn 0 256 0 0).wf = false ∧ (AsmStmt.powerOn 0 0 256 0).wf = false ∧
    (AsmStmt.powerOn 0 0 0 2).wf = false := by decide
theorem test_wf_send :
    (AsmStmt.send 1 255 255 255 1).wf = true ∧ (AsmStmt.send 2 0 0 0 0).wf = false ∧
    (AsmStmt.send 0 256 0 0 0).wf = false ∧ (AsmStmt.send 0 0 256 0 0).wf = false ∧
    (AsmStmt.send 0 0 0 256 0).wf = false ∧ (AsmStmt.send 0 0 0 0 2).wf = false := by decide
theorem test_wf_sendOn :
    (AsmStmt.sendOn 255 255 255 1).wf = true ∧ (AsmStmt.sendOn 256 0 0 0).wf = false ∧
    (AsmStmt.sendOn 0 256 0 0).wf = false ∧ (AsmStmt.sendOn 0 0 256 0).wf = false ∧
    (AsmStmt.sendOn 0 0 0 2).wf = false := by decide
theorem test_wf_word : (AsmStmt.word 0xFFFFFFFF).wf = true ∧ (AsmStmt.word 0x100000000).wf = false := by decide

/-! ### Decode: words written bit by bit as R47 lays them out (OPC RSV P S T F M) -/

theorem test_decode_setTemp :
    decode 0b0001_00_0_0_00011000_00000000_00000000 = .command (.setTemp 24) ∧
    decode 0b0001_00_1_1_00011000_11111111_11111111 = .command (.setTemp 24) := by decide
theorem test_decode_setFan :
    decode 0b0010_00_0_0_00000000_00000010_00000000 = .command (.setFan 2) ∧
    decode 0b0010_00_1_1_11111111_10000001_11111111 = .command (.setFan 0x81) := by decide
theorem test_decode_setMode :
    decode 0b0011_00_0_0_00000000_00000000_00000001 = .command (.setMode 1) ∧
    decode 0b0011_00_1_1_11111111_11111111_10000010 = .command (.setMode 0x82) := by decide
theorem test_decode_setPower :
    decode 0b0100_00_1_0_00000000_00000000_00000000 = .command (.setPower true) ∧
    decode 0b0100_00_0_1_11111111_11111111_11111111 = .command (.setPower false) := by decide
theorem test_decode_setSwing :
    decode 0b0101_00_0_1_00000000_00000000_00000000 = .command (.setSwing true) ∧
    decode 0b0101_00_1_0_11111111_11111111_11111111 = .command (.setSwing false) := by decide
theorem test_decode_powerOff :
    decode 0b0110_00_0_0_00000000_00000000_00000000 = .command .powerOff ∧
    decode 0b0110_00_1_1_11111111_11111111_11111111 = .command .powerOff := by decide
theorem test_decode_powerOn :
    decode 0b0111_00_0_0_00011000_00000010_00000001 = .command (.powerOn 1 2 24 false) ∧
    decode 0b0111_00_1_1_00010110_00000001_00000010 = .command (.powerOn 2 1 22 true) := by decide
theorem test_decode_checksum :
    decode 0b1000_00_0_0_00000000_00000000_00000000 = .command .checksum ∧
    decode 0b1000_00_1_1_11111111_11111111_11111111 = .command .checksum := by decide
theorem test_decode_encode :
    decode 0b1001_00_0_0_00000000_00000000_00000000 = .command .encode ∧
    decode 0b1001_00_1_1_11111111_11111111_11111111 = .command .encode := by decide
theorem test_decode_send :
    decode 0b1010_00_1_0_00011000_00000010_00000001 = .command (.send true 1 2 24 false) ∧
    decode 0b1010_00_0_1_00011000_00000010_00000001 = .command (.send false 1 2 24 true) := by decide
/-- The illegal words of 95_test_vectors.md 2.12 and program 3. -/
theorem test_decode_illegal :
    decode 0x00000000 = .illegal .reservedOpcode ∧ decode 0x0FFFFFFF = .illegal .reservedBits ∧
    decode 0xB0000000 = .illegal .reservedOpcode ∧ decode 0xF0000000 = .illegal .reservedOpcode ∧
    decode 0xFFFFFFFF = .illegal .reservedBits ∧ decode 0x14180000 = .illegal .reservedBits ∧
    decode 0xA8000000 = .illegal .reservedBits ∧ decode 0x6C000000 = .illegal .reservedBits ∧
    decode 0x1C180000 = .illegal .reservedBits := by decide
theorem test_decodeTableWord :
    decodeTableWord 32 0x10180000 = some (.setTemp 24) ∧ decodeTableWord 32 0xA1180201 = some (.send false 1 2 24 true) ∧
    decodeTableWord 32 0x14180000 = none ∧ decodeTableWord 8 0x10180000 = none := by decide

/-! ### The assembler (R57, R58) -/

theorem test_assembleLine_forms :
    assembleLine "  SET_TEMP\t0x18 ; warm".toList = some 0x10180000 ∧
    assembleLine "POWER_ON 1,2 , 24,0".toList = some 0x70180201 ∧
    assembleLine "SEND_ON 1, 2, 24, 0".toList = some 0xA2180201 ∧
    assembleLine ".word 0xfFFF0000".toList = some 0xFFFF0000 := by decide
theorem test_assembleLine_rejects :
    assembleLine "SET_TEMP 256".toList = none ∧ assembleLine "SET_TEMP".toList = none ∧
    assembleLine "SET_TEMP 1, 2".toList = none ∧ assembleLine "SET_TEMP -1".toList = none ∧
    assembleLine "set_temp 24".toList = none ∧ assembleLine "SET_TEMP 1,".toList = none ∧
    assembleLine "NOP".toList = none ∧ assembleLine "SET_TEMP 0x".toList = none := by decide
theorem test_assembleText :
    assembleText "POWER_OFF\n\n; off\nCHECKSUM".toList = some [0x60000000, 0x80000000] ∧
    assembleText "POWER_OFF\nNOP".toList = none := by decide

/-! ### Small states and what one step leaves -/

/-- A state with frame `f`, nothing presented, the reference parameters. -/
def st (f : Frame) : State := { State.reset with fr := f }
/-- The frame G of 95_test_vectors.md. -/
def g : Frame := ⟨0x01, 0x14, 0x30, 0x00, 0x00, 0x3A, 0x15, 0x2B⟩
/-- The frame of program 1, with swing on. -/
def swung : Frame := ⟨0x01, 0x31, 0x30, 0x00, 0x00, 0x30, 0xC0, 0x17⟩
/-- P_RESET_FRAME = G (95_test_vectors.md 2.13), with ON_SETS_POWER. -/
def gParams : Params := ⟨g, true⟩

/-- The columns of a vector: the end frame, the status, the data and the number of hand-offs. -/
def columns (s : State) : Frame × Option (Status × Byte) × Nat :=
  (s.fr, s.respLog.getLast?.map (fun r => (r.status, r.data)), s.txlog.length)
/-- One step on the word `w`. -/
def stepOn (s : State) (w : Nat) : Option (Frame × Option (Status × Byte) × Nat) :=
  match step (s.withFetchWord 32 w) with
  | .next t => some (columns t)
  | .fault _ => none
  | .refused _ => none

/-! Vectors 2.2 to 2.12. -/

theorem test_setTemp_wraps :
    stepOn (st ref) 0x10C80000 = some (⟨0x01, 0x14, 0x90, 0x00, 0x00, 0x30, 0x00, 0x12⟩, some (.ok, 0x00), 0) := by decide
theorem test_setTemp_from_off :
    stepOn (st off) 0x10100000 = some (⟨0x01, 0x14, 0x20, 0x00, 0x00, 0xC0, 0x00, 0x9B⟩, some (.ok, 0x00), 0) := by decide
theorem test_setFan_overflows :
    stepOn (st ref) 0x20000F00 = some (⟨0x01, 0x04, 0x30, 0x00, 0x00, 0x30, 0x00, 0x0B⟩, some (.ok, 0x00), 0) := by decide
theorem test_setFan_ignores_fields :
    stepOn (st ref) 0x20FF02FF = some (⟨0x01, 0x34, 0x30, 0x00, 0x00, 0x30, 0x00, 0x0E⟩, some (.ok, 0x00), 0) := by decide
theorem test_setMode_truncates :
    stepOn (st ref) 0x3000001F = some (⟨0x01, 0x1F, 0x30, 0x00, 0x00, 0x30, 0x00, 0x17⟩, some (.ok, 0x00), 0) := by decide
theorem test_setMode_from_off :
    stepOn (st off) 0x30000004 = some (⟨0x01, 0x14, 0x30, 0x00, 0x00, 0xC0, 0x00, 0x9C⟩, some (.ok, 0x00), 0) := by decide
theorem test_setPower_keeps_low_nibble :
    stepOn (st g) 0x40000000 = some (⟨0x01, 0x14, 0x30, 0x00, 0x00, 0xCA, 0x15, 0xBB⟩, some (.ok, 0x00), 0) := by decide
theorem test_setPower_on_from_off :
    stepOn (st off) 0x42000000 = some (⟨0x01, 0x14, 0x30, 0x00, 0x00, 0x30, 0x00, 0x0C⟩, some (.ok, 0x00), 0) := by decide
theorem test_setSwing_keeps_low_bits :
    stepOn (st g) 0x51000000 = some (⟨0x01, 0x14, 0x30, 0x00, 0x00, 0x3A, 0xD5, 0x37⟩, some (.ok, 0x00), 0) := by decide
theorem test_setSwing_clears_one_bit :
    stepOn (st ⟨0x01, 0x14, 0x30, 0x00, 0x00, 0x30, 0x40, 0x98⟩) 0x50000000 =
      some (⟨0x01, 0x14, 0x30, 0x00, 0x00, 0x30, 0x00, 0x0C⟩, some (.ok, 0x00), 0) := by decide
theorem test_powerOff_from_g :
    stepOn (st g) 0x60000000 = some (⟨0x01, 0x14, 0x30, 0x00, 0x00, 0xC0, 0x00, 0x15⟩, some (.ok, 0x00), 0) := by decide
theorem test_powerOn_wraps :
    stepOn (st ref) 0x71FFFFFF = some (⟨0x01, 0x0F, 0xFE, 0x00, 0x00, 0x30, 0xC0, 0x3C⟩, some (.ok, 0x00), 0) := by decide
theorem test_powerOn_sets_power :
    stepOn { st off with params := ⟨ref, true⟩ } 0x70180201 =
      some (⟨0x01, 0x31, 0x30, 0x00, 0x00, 0x30, 0x00, 0x0B⟩, some (.ok, 0x00), 0) := by decide
theorem test_checksum_of_off :
    stepOn (st off) 0x80000000 = some (⟨0x01, 0x14, 0x30, 0x00, 0x00, 0xC0, 0x00, 0x15⟩, some (.ok, 0x9C), 0) := by decide
theorem test_checksum_of_g :
    stepOn (st g) 0x80000000 = some (⟨0x01, 0x14, 0x30, 0x00, 0x00, 0x3A, 0x15, 0x2B⟩, some (.ok, 0x2B), 0) := by decide
theorem test_encode_of_off :
    stepOn (st off) 0x90000000 = some (⟨0x01, 0x14, 0x30, 0x00, 0x00, 0xC0, 0x00, 0x15⟩, some (.ok, 0x00), 0) := by decide
theorem test_send_on :
    stepOn (st g) 0xA3160102 = some (⟨0x01, 0x22, 0x2C, 0x00, 0x00, 0x3A, 0xD5, 0x41⟩, some (.ok, 0x01), 1) := by decide
theorem test_send_off_ignores_operands :
    stepOn (st ref) 0xA1FFFFFF = some (⟨0x01, 0x14, 0x30, 0x00, 0x00, 0xC0, 0x00, 0x15⟩, some (.ok, 0x01), 1) := by decide
theorem test_illegal_word :
    stepOn (st ref) 0xA8000000 = some (⟨0x01, 0x14, 0x30, 0x00, 0x00, 0x30, 0x00, 0x0C⟩, some (.illegal, 0x00), 0) := by decide
/-- 2.13: reset keeps TxLog and delivers no response. -/
theorem test_reset :
    step { st off with params := gParams, resetIn := .asserted, port := [0x60000000] } =
      .next { st g with params := gParams } := by rfl
/-- R107's launch state, with the reference parameters. -/
theorem test_launch : State.reset.fr = ⟨0x01, 0x14, 0x30, 0x00, 0x00, 0x30, 0x00, 0x0C⟩ ∧ State.reset.txlog = [] := by decide

/-! ### The checksum table 2.1 -/

theorem test_checksum_table :
    checksum ⟨0x00, 0x00, 0x00, 0x00, 0x00, 0x00, 0x00, 0x00⟩ = 0xD3 ∧
    checksum ⟨0xFF, 0xFF, 0xFF, 0xFF, 0xFF, 0xFF, 0xFF, 0x00⟩ = 0x56 ∧
    checksum ⟨0x01, 0x14, 0x30, 0x00, 0x00, 0x30, 0x40, 0x00⟩ = 0x98 ∧
    checksum ⟨0x01, 0x14, 0x30, 0x00, 0x00, 0x30, 0x80, 0x00⟩ = 0xD8 ∧
    checksum ⟨0x01, 0xF1, 0xFE, 0x00, 0x00, 0x30, 0xC0, 0x00⟩ = 0x3D ∧
    checksum ⟨0x01, 0x01, 0x0F, 0x00, 0x00, 0x30, 0x00, 0x00⟩ = 0x14 ∧
    checksum ⟨0x01, 0x01, 0x10, 0x00, 0x00, 0x30, 0x00, 0x00⟩ = 0x06 := by decide

/-! ### The listing of ENC(OFF_FRAME), 2.10 -/

theorem test_wave_repeat0 :
    ((enc off).toList.drop 82).take 16 =
      [545, 1618, 545, 1618, 545, 1618, 545, 1618, 545, 1618, 545, 1618, 1618, 545, 1618, 545] := by decide
theorem test_wave_gap_and_header :
    ((enc off).toList.drop 128).take 8 = [545, 1618, 1618, 31000, 8000, 4000, 1618, 545] := by decide
theorem test_wave_end :
    ((enc off).toList.drop 246) = [1618, 545, 545, 1618, 1618, 545, 545, 1618, 1618, 545, 545, 1618, 545, 1618, 545, 1618,
      1618, 1618] := by decide
/-- R35's example. -/
theorem test_frameQ : (st off).frameQ = 0x1500C00000301401 := by decide

/-! ### Witnesses: states and operands that meet the hypotheses of each statement together -/

/-- A state that takes the word `w`, with words behind it. -/
def taking (w : CmdWord) : State := { st g with port := [w, 0x80000000], params := gParams }
/-- The same, with reset to arrive during the next SEND. -/
def takingBeforeReset (w : CmdWord) : State := { taking w with resetIn := .duringSend }

/-- The words of the ten commands, all operand bits 0 and all operand and ignored bits 1: the encoding clause of
SetTempDoublesIntoTemp2 to SendUpdatesEncodesHandsOver. -/
theorem witness_command_words :
    (0x10000000#32).extractLsb' 26 6 = 0b000100#6 ∧ (0x13FFFFFF#32).extractLsb' 26 6 = 0b000100#6 ∧
    (0x20000000#32).extractLsb' 26 6 = 0b001000#6 ∧ (0x23FFFFFF#32).extractLsb' 26 6 = 0b001000#6 ∧
    (0x30000000#32).extractLsb' 26 6 = 0b001100#6 ∧ (0x33FFFFFF#32).extractLsb' 26 6 = 0b001100#6 ∧
    (0x40000000#32).extractLsb' 26 6 = 0b010000#6 ∧ (0x43FFFFFF#32).extractLsb' 26 6 = 0b010000#6 ∧
    (0x50000000#32).extractLsb' 26 6 = 0b010100#6 ∧ (0x53FFFFFF#32).extractLsb' 26 6 = 0b010100#6 ∧
    (0x60000000#32).extractLsb' 26 6 = 0b011000#6 ∧ (0x63FFFFFF#32).extractLsb' 26 6 = 0b011000#6 ∧
    (0x70000000#32).extractLsb' 26 6 = 0b011100#6 ∧ (0x73FFFFFF#32).extractLsb' 26 6 = 0b011100#6 ∧
    (0x80000000#32).extractLsb' 26 6 = 0b100000#6 ∧ (0x83FFFFFF#32).extractLsb' 26 6 = 0b100000#6 ∧
    (0x90000000#32).extractLsb' 26 6 = 0b100100#6 ∧ (0x93FFFFFF#32).extractLsb' 26 6 = 0b100100#6 ∧
    (0xA0000000#32).extractLsb' 26 6 = 0b101000#6 ∧ (0xA3FFFFFF#32).extractLsb' 26 6 = 0b101000#6 := by decide
/-- The example clauses (`Leaves`, POWER_ON's two examples, FrameQPacksLittleEndian). -/
theorem witness_example_frames : (st ref).fr = ref ∧ (st off).fr = off ∧ (taking 0).fr ≠ ref := by decide
theorem witness_PowerOnSetsUserFields :
    [Instr.setSwing true, .setMode 3, .setTemp 200, .setFan 15].Perm (settersOf false 3 15 200 true) ∧
    [Instr.setPower true, .setSwing false, .setTemp 16, .setMode 4, .setFan 0].Perm (settersOf true 4 0 16 false) := by
  decide
/-- Also for ReachableStatesHaveInvariant and LaunchHasInvariant. -/
theorem witness_admissible : gParams.Admissible ∧ Params.Admissible ⟨swung, false⟩ := by decide
/-- A reachable state that is neither launch nor off: G after SET_TEMP 200. -/
theorem witness_reachable : ∃ s, Reachable gParams s ∧ s.fr.temp2 = 0x90 ∧ s.fr ≠ off ∧ swingLow s.fr ≠ 0 :=
  ⟨_, .step (.present 0x10C80000 .launch) rfl, by decide, by decide, by decide⟩
theorem witness_ChecksumQueryStoresNothing :
    gParams.Admissible ∧ Reachable gParams (State.launch gParams) ∧ (State.launch gParams).fr ≠ off :=
  ⟨by decide, .launch, by decide⟩
/-- Also for EveryCommandAnswersOnce: an illegal word taken, by opcode and by RSV; and a reset asserted. -/
theorem witness_WriteMatrixBoundsEveryCommand :
    Takes (taking 0xB0000000) 0xB0000000 [0x80000000] ∧ decode 0xB0000000 = .illegal .reservedOpcode ∧
    Takes (takingBeforeReset 0x14180000) 0x14180000 [0x80000000] ∧ decode 0x14180000 = .illegal .reservedBits ∧
    (taking 0x60000000).assertReset.resetIn = .asserted := by
  simp only [Takes]; decide
theorem witness_EveryCommandAnswersOnce :
    isSend (.send false 0 0 0 false) = true ∧ Instr.powerOff ≠ .checksum ∧ isSend .powerOff = false ∧
    Instr.checksum ≠ .encode := by decide
theorem witness_ChecksumArithmeticLaws : swingBits g = 0 ∧ swingBits ref = 0 := by decide
theorem witness_ChecksumNeverReadsFR7 :
    ref ≠ { ref with csum := 0xFF } ∧ ∀ k : Fin 8, k ≠ 7 → frameByte ref k = frameByte { ref with csum := 0xFF } k := by
  decide
theorem witness_OperandsCountOnlyByResidue :
    (0x7F#8).toNat % 128 = (0xFF#8).toNat % 128 ∧ (0x00#8).toNat % 16 = (0xF0#8).toNat % 16 ∧
    (0x0F#8).toNat % 16 = (0x1F#8).toNat % 16 := by decide
theorem witness_DecodeOfEncodeIsTheCommand : (Instr.send true 255 0 128 true).wf = true := by decide
theorem witness_EncodeOfDecodeClearsIgnoredBits :
    decode 0x13FF1234 = .command (.setTemp 0xFF) ∧ decode 0xA0000000 = .command (.send false 0 0 0 false) := by decide
theorem witness_IgnoredFieldsChangeNothing :
    (1 ≤ 1 ∧ 1 ≤ 10) ∧ (∃ i, decode 0x13FFFFFF = .command i ∧ opcodeNumber i = 1) ∧
    (1 ≤ 10 ∧ 10 ≤ 10) ∧ (∃ i, decode 0xA3FFFFFF = .command i ∧ opcodeNumber i = 10) :=
  ⟨by decide, ⟨.setTemp 0xFF, by decide⟩, by decide, ⟨.send true 0xFF 0xFF 0xFF true, by decide⟩⟩
/-- A word under each clause, RSV = 01, 10 and 11 and both ends of the reserved range among them. -/
theorem witness_DecoderFollowsOpcodeMap :
    0x14000000 / 2 ^ 26 % 4 = 1 ∧ 0x18000000 / 2 ^ 26 % 4 = 2 ∧ 0xFFFFFFFF / 2 ^ 26 % 4 = 3 ∧
    (∀ opc : Fin 16, (opc.val * 2 ^ 28) / 2 ^ 28 = opc.val ∧ (opc.val * 2 ^ 28) / 2 ^ 26 % 4 = 0 ∧
      (opc.val * 2 ^ 28 + 0x3FFFFFF) / 2 ^ 28 = opc.val ∧ (opc.val * 2 ^ 28 + 0x3FFFFFF) / 2 ^ 26 % 4 = 0) := by decide
theorem witness_WaveformDependsOnDataPositionsOnly :
    (0 : Fin 264).val ∈ [0, 1, 130, 131, 132, 133, 262, 263] ∧
    (263 : Fin 264).val ∈ [0, 1, 130, 131, 132, 133, 262, 263] := by decide
theorem witness_CommandsAreIdempotentOnFR :
    (Instr.encode = .checksum ∨ Instr.encode = .encode) ∧ isSend (.send true 1 2 24 false) = true := by decide
theorem witness_SettersAreIndependent :
    isSetter (.setFan 3) = true ∧ isSetter (.setMode 9) = true ∧ opcodeNumber (.setFan 3) ≠ opcodeNumber (.setMode 9) ∧
    isMutator (.powerOn 1 2 3 true) = true ∧ isMutator (.setPower false) = true ∧
    (∃ a b c : Byte, swung = { ref with fanMode := a, temp2 := b, swing := c, csum := 0x17 } ∧
      c.extractLsb' 0 6 = ref.swing.extractLsb' 0 6) := ⟨by decide, by decide, by decide, by decide, by decide,
    0x31, 0x30, 0xC0, by decide, by decide⟩
/-- Its last clause: two frames that differ in FR1, FR2 and SWINGBITS only. -/
theorem witness_SettersAreIndependent_powerOn :
    (taking 0).params = { taking 0 with fr := { g with fanMode := 0xFF, temp2 := 0xFF, swing := 0x55 } }.params ∧
    (0x55#8).extractLsb' 0 6 = (taking 0).fr.swing.extractLsb' 0 6 ∧ (taking 0).fr.swing ≠ 0x55 := by decide
/-- Also for OffIsLeftByEveryMutator and PowerCodeAfterAnOff. -/
theorem witness_OffThenOnHidesThePast :
    isOffCommand .powerOff = true ∧ isOffCommand (.send false 255 255 255 true) = true ∧
    (st ref).params.onSetsPower = (st g).params.onSetsPower ∧ (st ref).fr ≠ (st g).fr := by decide
theorem witness_SendOnKeepsHistory : (st g).params.onSetsPower = false ∧ (taking 0).params.onSetsPower = true := by decide
theorem witness_OffIsLeftByEveryMutator :
    isMutator (.setTemp 0) = true ∧ isMutator (.setFan 0) = true ∧ isMutator (.setMode 0) = true ∧
    isMutator (.setPower true) = true ∧ isMutator (.setSwing true) = true ∧ isMutator (.powerOn 4 0 24 false) = true ∧
    isMutator .powerOff = false := by decide
/-- A step that keeps an odd FR2 and swing bits 01, as its second clause allows. -/
theorem witness_ParityAndSwingPairAfterWrites :
    ∃ u, step ((st ⟨0x01, 0x14, 0x31, 0x00, 0x00, 0x30, 0x40, 0x00⟩).withFetchWord 32 0x80000000) = .next u ∧
      u.fr.temp2.toNat % 2 = 1 ∧ swingBits u.fr = 0b01 :=
  ⟨_, rfl, by decide, by decide⟩
theorem witness_StaleSwingBitsComeFromReset :
    gParams.Admissible ∧ Reachable gParams (State.launch gParams) ∧ swingLow (State.launch gParams).fr ≠ 0 :=
  ⟨by decide, .launch, by decide⟩
/-- Both ways the last hypothesis holds: reset idle, or a command other than SEND. -/
theorem witness_StepRunsTheDecodedCommand :
    Takes (taking 0xA2180201) 0xA2180201 [0x80000000] ∧ decode 0xA2180201 = .command (.send true 1 2 24 false) ∧
    (taking 0xA2180201).resetIn = .idle ∧
    Takes (takingBeforeReset 0x10180000) 0x10180000 [0x80000000] ∧ decode 0x10180000 = .command (.setTemp 24) ∧
    isSend (.setTemp 24) = false := by
  simp only [Takes]; decide
/-- Each of the three ways a word is illegal. -/
theorem witness_IllegalWordChangesNothing :
    Takes (taking 0x03FFFFFF) 0x03FFFFFF [0x80000000] ∧ (0x03FFFFFF#32).toNat / 2 ^ 28 = 0 ∧
    Takes (taking 0xB0000000) 0xB0000000 [0x80000000] ∧ 0xB ≤ (0xB0000000#32).toNat / 2 ^ 28 ∧
    Takes (taking 0xAC000000) 0xAC000000 [0x80000000] ∧ (0xAC000000#32).toNat / 2 ^ 26 % 4 ≠ 0 := by
  simp only [Takes]; decide
/-- Also for ResetOutranksPresentedWords: reset asserted with words presented. -/
theorem witness_ResetWritesFrameKeepsTxLog :
    (taking 0x60000000).assertReset.resetIn = .asserted ∧ (taking 0x60000000).assertReset.port ≠ [] := by decide
theorem witness_ResetDuringSendDropsResponse :
    (takingBeforeReset 0xA2180201).resetIn = .duringSend ∧
    (takingBeforeReset 0xA2180201).port = [0xA2180201, 0x80000000] ∧
    decode 0xA2180201 = .command (.send true 1 2 24 false) ∧ isSend (.send true 1 2 24 false) = true ∧
    (takingBeforeReset 0x60000000).port = [0x60000000, 0x80000000] ∧ decode 0x60000000 = .command .powerOff ∧
    isSend .powerOff = false := by decide
theorem witness_LaterWordsWaitInOrder :
    (takingBeforeReset 0xA2180201).resetIn ≠ .asserted ∧ (takingBeforeReset 0xA2180201).port ≠ [] := by decide
theorem witness_EveryPresentedWordIsAnswered :
    (taking 0xB0000000).resetIn = .idle ∧ (taking 0xB0000000).port.length = 2 := by decide
theorem witness_EveryStepAnswersNext : (st g).resetIn ≠ .asserted ∧ (st g).port = [] := by decide
theorem witness_OnlySendAppendsToTxLog :
    (∃ w rest i, Takes (taking 0xA0000000) w rest ∧ decode w = .command i ∧ isSend i = true) ∧
    (¬ ∃ w rest i, Takes (st g) w rest ∧ decode w = .command i ∧ isSend i = true) :=
  ⟨⟨0xA0000000, [0x80000000], .send false 0 0 0 false, ⟨by decide, rfl⟩, by decide, by decide⟩,
   fun ⟨_, _, _, ht, _⟩ => by simp [st, State.reset, State.launch, Takes] at ht⟩
/-- Also for ChecksumHoldsOrFrameIsOff, both ways its hypothesis holds. -/
theorem witness_ConstantBytesStayConstant :
    (taking 0).params.Admissible ∧ FixedBytes (taking 0).fr ∧ (taking 0).fr.csum = checksum (taking 0).fr ∧
    (st off).params.Admissible ∧ FixedBytes (st off).fr ∧ (st off).fr = off ∧ (st off).fr.csum ≠ checksum (st off).fr := by
  decide
/-- A state with the invariant that is not launch: off, one hand-off made, a SEND presented. -/
def invState : State := { st off with txlog := [⟨enc off, 38⟩], port := [0xA2180201] }
theorem witness_StepKeepsInvariant : Inv invState ∧ ∃ u, step invState = .next u ∧ u.txlog.length = 2 :=
  ⟨⟨by decide, by decide, .inr rfl, .inr (by decide), .inr (by decide), .inr (by decide),
    fun h hh => ⟨by simp_all [invState], off, by decide, .inr rfl, by simp_all [invState]⟩,
    fun r hr => by simp [invState, st, State.reset, State.launch] at hr⟩, _, rfl, rfl⟩
/-- Both hypotheses together: the invariant and a pending reset, as a cut-short SEND leaves it. -/
theorem witness_HostMovesKeepInvariantAndPendingReset : Inv invState.assertReset ∧ invState.assertReset.resetIn = .asserted :=
  have h := witness_StepKeepsInvariant.1
  ⟨⟨h.1, h.2, h.3, h.4, h.5, h.6, h.7, h.8⟩, rfl⟩
/-- A cut-short SEND leaves its reset pending, and announcing another one does not withdraw it (R108, log 5). -/
theorem test_pending_reset_stays :
    ∃ u, step (takingBeforeReset 0xA2180201) = .next u ∧ u.assertResetDuringSend.resetIn = .asserted ∧
      (takingBeforeReset 0xA2180201).assertResetDuringSend.resetIn = .duringSend :=
  ⟨_, rfl, by decide, by decide⟩

end Sys2Proof.Tests
end

section
/-! SUPPORT. Family 00_scope: a step that takes a command word runs that command (R11, R54). -/

namespace Sys2Proof.Machine

open Sys2Proof.Claim

/-- R108 concerns SEND alone: with reset idle, or for another command, running a command is its meaning and no more. -/
theorem runCommand_eq_exec {i : Instr} {s : State} (h : s.resetIn = .idle ∨ isSend i = false) :
    runCommand i s = exec i s := by
  have hwhole : (isSend i && s.resetIn == .duringSend) = false := by
    rcases h with hidle | hsend
    · simp [hidle]
    · simp [hsend]
  rw [runCommand_eq i s _ (exec_eq i s), hwhole, exec_eq]
  rfl

/-- The step that takes a command word runs its command once the word has left the port (R43, R54). -/
theorem step_command {s : State} {w : CmdWord} {rest : List CmdWord} {i : Instr} (ht : Takes s w rest)
    (hd : decode w = .command i) : step s = runCommand i { s with port := rest } := by
  obtain ⟨hreset, hport⟩ := ht
  rw [step_word hreset hport, acceptWord_command _ hd]

/-- Settles O42: the accepted word's command is run (`step_command`), and nothing cuts it short
(`runCommand_eq_exec`). -/
theorem stepRunsTheDecodedCommand : Obligations.StepRunsTheDecodedCommand := by
  unfold Obligations.StepRunsTheDecodedCommand
  intro s w rest i ht hd hwhole
  calc step s = runCommand i { s with port := rest } := step_command ht hd
    _ = exec i { s with port := rest } := runCommand_eq_exec hwhole

end Sys2Proof.Machine
end

section
/-! SUPPORT. Family 10_state: the frame a command leaves, by kind of command (R12, R18, R63, R70). -/

namespace Sys2Proof.Machine

open Sys2Proof.Claim

/-! ### The shape of the frame -/

/-- `g` is `f` with some user fields rewritten as the commands rewrite them and FR7 recomputed: what every mutator, and
SEND with P = 1, makes of the frame. -/
structure FieldUpdate (f g : Frame) : Prop where
  marker : g.marker = f.marker
  rsv3 : g.rsv3 = f.rsv3
  rsv4 : g.rsv4 = f.rsv4
  temp2 : g.temp2 = f.temp2 ∨ ∃ t, g.temp2 = scaleTemp t
  power : g.power = f.power ∨ ∃ p, g.power = insertPower p f.power
  swing : g.swing = f.swing ∨ ∃ sw, g.swing = insertSwing sw f.swing
  csum : g.csum = checksum g

/-- The literal off-frame of the statements is the model's. -/
theorem off_eq_offFrame : off = offFrame := rfl

/-- POWER_ON's frame: FR5 is kept or gets the on code, by `ON_SETS_POWER` (R71). -/
theorem applyPowerOn_fieldUpdate (b : Bool) (m l t : Byte) (sw : Bool) (f : Frame) :
    FieldUpdate f (applyPowerOn b m l t sw f) where
  marker := rfl
  rsv3 := rfl
  rsv4 := rfl
  temp2 := .inr ⟨t, rfl⟩
  power := by
    cases b
    · exact .inl rfl
    · exact .inr ⟨true, rfl⟩
  swing := .inr ⟨sw, rfl⟩
  csum := rfl

/-- A mutator rewrites user fields and recomputes FR7 (R63). -/
theorem frameAfter_of_isMutator {i : Instr} (hi : isMutator i = true) (b : Bool) (f : Frame) :
    FieldUpdate f (frameAfter b i f) := by
  cases i with
  | setTemp t => exact ⟨rfl, rfl, rfl, .inr ⟨t, rfl⟩, .inl rfl, .inl rfl, rfl⟩
  | setFan l => exact ⟨rfl, rfl, rfl, .inl rfl, .inl rfl, .inl rfl, rfl⟩
  | setMode m => exact ⟨rfl, rfl, rfl, .inl rfl, .inl rfl, .inl rfl, rfl⟩
  | setPower p => exact ⟨rfl, rfl, rfl, .inl rfl, .inr ⟨p, rfl⟩, .inl rfl, rfl⟩
  | setSwing sw => exact ⟨rfl, rfl, rfl, .inl rfl, .inl rfl, .inr ⟨sw, rfl⟩, rfl⟩
  | powerOn m l t sw => exact applyPowerOn_fieldUpdate b m l t sw f
  | powerOff | checksum | encode | send => cases hi

/-- POWER_OFF and SEND 0 leave the off-frame (R70, R87). -/
theorem frameAfter_of_isOffCommand {i : Instr} (hi : isOffCommand i = true) (b : Bool) (f : Frame) :
    frameAfter b i f = offFrame := by
  cases i with
  | powerOff => rfl
  | send p m l t sw =>
    cases p
    · rfl
    · cases hi
  | setTemp | setFan | setMode | setPower | setSwing | powerOn | checksum | encode => cases hi

/-- Everything a command can make of the frame: the same frame, the off-frame, or a field update. -/
theorem frameAfter_shape (b : Bool) (i : Instr) (f : Frame) :
    frameAfter b i f = f ∨ frameAfter b i f = offFrame ∨ FieldUpdate f (frameAfter b i f) := by
  cases i with
  | setTemp | setFan | setMode | setPower | setSwing | powerOn => exact .inr (.inr (frameAfter_of_isMutator rfl b f))
  | powerOff => exact .inr (.inl rfl)
  | checksum | encode => exact .inl rfl
  | send p m l t sw =>
    cases p
    · exact .inr (.inl rfl)
    · exact .inr (.inr (applyPowerOn_fieldUpdate b m l t sw f))

/-! ### What a command does to each part of the frame -/

/-- FR0, FR3 and FR4 keep their constants (R31). -/
theorem frameAfter_fixedBytes (b : Bool) (i : Instr) {f : Frame} (hf : FixedBytes f) :
    FixedBytes (frameAfter b i f) := by
  rcases frameAfter_shape b i f with h | h | h
  · rw [h]; exact hf
  · rw [h]; decide
  · rw [FixedBytes, h.marker, h.rsv3, h.rsv4]; exact hf

/-- FR7 stays the checksum, or the frame the off-frame (R32). -/
theorem frameAfter_checksumOrOff (b : Bool) (i : Instr) {f : Frame} (hf : ChecksumOrOff f) :
    ChecksumOrOff (frameAfter b i f) := by
  rcases frameAfter_shape b i f with h | h | h
  · rw [h]; exact hf
  · exact .inr h
  · exact .inl h.csum

/-- PWRCODE is kept, or written as 0x3 or 0xC (R68, R70). -/
theorem frameAfter_pwrCode (b : Bool) (i : Instr) (f : Frame) :
    pwrCode (frameAfter b i f) = pwrCode f ∨ pwrCode (frameAfter b i f) = 0x3 ∨ pwrCode (frameAfter b i f) = 0xC := by
  rcases frameAfter_shape b i f with h | h | h
  · rw [h]; exact .inl rfl
  · rw [h]; exact .inr (.inr rfl)
  · rcases h.power with hp | ⟨p, hp⟩
    · exact .inl (by rw [pwrCode, hp, pwrCode])
    · rw [pwrCode, hp, insertPower_high]
      cases p
      · exact .inr (.inr rfl)
      · exact .inr (.inl rfl)

/-- FR5[3:0] is kept or cleared (R18). -/
theorem frameAfter_powerLow (b : Bool) (i : Instr) (f : Frame) :
    powerLow (frameAfter b i f) = powerLow f ∨ powerLow (frameAfter b i f) = 0 := by
  rcases frameAfter_shape b i f with h | h | h
  · rw [h]; exact .inl rfl
  · rw [h]; exact .inr rfl
  · rcases h.power with hp | ⟨p, hp⟩
    · exact .inl (by rw [powerLow, hp, powerLow])
    · exact .inl (by rw [powerLow, hp, insertPower_low, powerLow])

/-- FR6[5:0] is kept or cleared (R18, R116). -/
theorem frameAfter_swingLow (b : Bool) (i : Instr) (f : Frame) :
    swingLow (frameAfter b i f) = swingLow f ∨ swingLow (frameAfter b i f) = 0 := by
  rcases frameAfter_shape b i f with h | h | h
  · rw [h]; exact .inl rfl
  · rw [h]; exact .inr rfl
  · rcases h.swing with hs | ⟨sw, hs⟩
    · exact .inl (by rw [swingLow, hs, swingLow])
    · exact .inl (by rw [swingLow, hs, insertSwing_low, swingLow])

/-- SWINGBITS written by a command are 00 or 11 (R33, R69). -/
theorem swingBits_of_insertSwing {g : Frame} {sw : Bool} {c : Byte} (h : g.swing = insertSwing sw c) :
    swingBits g = 0b00 ∨ swingBits g = 0b11 := by
  rw [swingBits, h, insertSwing_high]
  cases sw
  · exact .inl rfl
  · exact .inr rfl

/-- SWINGBITS are kept, or written as 00 or 11 (R33). -/
theorem frameAfter_swingBits (b : Bool) (i : Instr) (f : Frame) :
    swingBits (frameAfter b i f) = swingBits f ∨
      (swingBits (frameAfter b i f) = 0b00 ∨ swingBits (frameAfter b i f) = 0b11) := by
  rcases frameAfter_shape b i f with h | h | h
  · rw [h]; exact .inl rfl
  · rw [h]; exact .inr (.inl rfl)
  · rcases h.swing with hs | ⟨sw, hs⟩
    · exact .inl (by rw [swingBits, hs, swingBits])
    · exact .inr (swingBits_of_insertSwing hs)

/-- FR2 from an operand is even (R33, R65). -/
theorem scaleTemp_even (t : Byte) : (scaleTemp t).toNat % 2 = 0 := by rw [scaleTemp_toNat]; omega

/-- FR2 is kept, or written as an even byte (R33). -/
theorem frameAfter_temp2 (b : Bool) (i : Instr) (f : Frame) :
    (frameAfter b i f).temp2 = f.temp2 ∨ (frameAfter b i f).temp2.toNat % 2 = 0 := by
  rcases frameAfter_shape b i f with h | h | h
  · rw [h]; exact .inl rfl
  · rw [h]; exact .inr rfl
  · rcases h.temp2 with ht | ⟨t, ht⟩
    · exact .inl ht
    · exact .inr (by rw [ht]; exact scaleTemp_even t)

/-- What a command leaves from a frame, from what `frameAfter` says for both values of `ON_SETS_POWER`. -/
theorem leaves_of_frameAfter {i : Instr} {f g : Frame} (h : ∀ b, frameAfter b i f = g) : Leaves i f g :=
  fun s hs => ⟨_, exec_eq i s, by subst hs; exact h s.params.onSetsPower⟩

end Sys2Proof.Machine
end

section
/-! SUPPORT. Family 10_state: what each part of the state is after a step (R11, R26, R27, R108). -/

namespace Sys2Proof.Machine

open Sys2Proof.Claim

/-! ### Running a command, cut short or not -/

/-- Reset arrives during this command's Transmitter wait (R108). -/
def isCutShort (i : Instr) (s : State) : Bool := isSend i && s.resetIn == .duringSend

/-- The state a command leaves, cut short or not: its frame and its hand-offs stand either way, the response only if the
command is whole, and a cut-short SEND leaves its reset pending (R108). -/
def commandResult (i : Instr) (s : State) : State :=
  { s with
    fr := frameAfter s.params.onSetsPower i s.fr
    txlog := s.txlog ++ handOffsOf i (frameAfter s.params.onSetsPower i s.fr)
    resetIn := if isCutShort i s then .asserted else s.resetIn
    respLog := if isCutShort i s then s.respLog else s.respLog ++ [responseOf i s.fr] }

@[simp] theorem commandResult_fr (i : Instr) (s : State) :
    (commandResult i s).fr = frameAfter s.params.onSetsPower i s.fr := rfl
@[simp] theorem commandResult_txlog (i : Instr) (s : State) :
    (commandResult i s).txlog = s.txlog ++ handOffsOf i (frameAfter s.params.onSetsPower i s.fr) := rfl
@[simp] theorem commandResult_port (i : Instr) (s : State) : (commandResult i s).port = s.port := rfl
@[simp] theorem commandResult_resetIn (i : Instr) (s : State) :
    (commandResult i s).resetIn = if isCutShort i s then .asserted else s.resetIn := rfl
@[simp] theorem commandResult_respLog (i : Instr) (s : State) :
    (commandResult i s).respLog = if isCutShort i s then s.respLog else s.respLog ++ [responseOf i s.fr] := rfl
@[simp] theorem commandResult_params (i : Instr) (s : State) : (commandResult i s).params = s.params := rfl

/-- With reset idle no command is cut short. -/
theorem isCutShort_of_idle {s : State} (h : s.resetIn = .idle) (i : Instr) : isCutShort i s = false := by
  simp [isCutShort, h]

theorem runCommand_eq_commandResult (i : Instr) (s : State) : runCommand i s = .next (commandResult i s) := by
  rw [runCommand_eq i s _ (exec_eq i s), ← isCutShort]
  cases hcut : isCutShort i s with
  | false => simp [commandResult, hcut]
  | true => simp [commandResult, State.cutShort, hcut]

/-! ### The step, case by case -/

theorem step_takes_command {s : State} {w : CmdWord} {rest : List CmdWord} {i : Instr} (ht : Takes s w rest)
    (hd : decode w = .command i) : step s = .next (commandResult i { s with port := rest }) := by
  rw [step_command ht hd, runCommand_eq_commandResult]

theorem step_takes_illegal {s : State} {w : CmdWord} {rest : List CmdWord} {r : IllegalReason} (ht : Takes s w rest)
    (hd : decode w = .illegal r) : step s = .next { s with port := rest }.raiseIllegal := by
  obtain ⟨hreset, hport⟩ := ht
  rw [step_word hreset hport, acceptWord_illegal _ hd]

/-- What a step can take: a reset, nothing, an illegal word or a command, and the state each leaves. -/
inductive StepCase (s : State) : State → Prop where
  | reset (ha : s.resetIn = .asserted) : StepCase s s.takeReset
  | idle (hp : s.port = []) : StepCase s s
  | illegal {w : CmdWord} {rest : List CmdWord} {r : IllegalReason} (ht : Takes s w rest) (hd : decode w = .illegal r) :
      StepCase s { s with port := rest }.raiseIllegal
  | command {w : CmdWord} {rest : List CmdWord} {i : Instr} (ht : Takes s w rest) (hd : decode w = .command i) :
      StepCase s (commandResult i { s with port := rest })

/-- Every state has a step, and it is one of the four kinds (R11, R93). -/
theorem step_total (s : State) : ∃ u, step s = .next u ∧ StepCase s u := by
  by_cases ha : s.resetIn = .asserted
  · exact ⟨_, step_asserted ha, .reset ha⟩
  · cases hp : s.port with
    | nil => exact ⟨_, step_idle ha hp, .idle hp⟩
    | cons w rest =>
      have ht : Takes s w rest := ⟨ha, hp⟩
      cases hd : decode w with
      | illegal r => exact ⟨_, step_takes_illegal ht hd, .illegal ht hd⟩
      | command i => exact ⟨_, step_takes_command ht hd, .command ht hd⟩

theorem StepCase.of_step {s u : State} (h : step s = .next u) : StepCase s u := by
  obtain ⟨v, hv, hcase⟩ := step_total s
  rw [h] at hv
  cases hv
  exact hcase

/-! ### Each part of the state after a step -/

/-- The parameters never change (log 1). -/
theorem StepCase.params {s u : State} (h : StepCase s u) : u.params = s.params := by
  cases h <;> rfl

/-- The frame after a step is the reset frame, the frame as it was, or what a command makes of it. -/
theorem StepCase.frame {s u : State} (h : StepCase s u) :
    u.fr = s.params.resetFrame ∨ u.fr = s.fr ∨ ∃ i, u.fr = frameAfter s.params.onSetsPower i s.fr := by
  cases h with
  | reset => exact .inl rfl
  | idle => exact .inr (.inl rfl)
  | illegal => exact .inr (.inl rfl)
  | @command _ _ i => exact .inr (.inr ⟨i, rfl⟩)

/-- A property of frames that P_RESET_FRAME has and every command keeps is kept by a step. -/
theorem StepCase.keeps_frame {P : Frame → Prop} {s u : State} (h : StepCase s u) (hreset : P s.params.resetFrame)
    (hs : P s.fr) (hcmd : ∀ i, P (frameAfter s.params.onSetsPower i s.fr)) : P u.fr := by
  rcases h.frame with hf | hf | ⟨i, hf⟩
  · rw [hf]; exact hreset
  · rw [hf]; exact hs
  · rw [hf]; exact hcmd i

/-- A step takes a SEND. -/
def TakesSend (s : State) : Prop := ∃ w rest i, Takes s w rest ∧ decode w = .command i ∧ isSend i = true

/-- The word a step takes is the oldest one presented, and no other. -/
theorem takes_word_unique {s : State} {w w' : CmdWord} {rest rest' : List CmdWord} (h : Takes s w rest)
    (h' : Takes s w' rest') : w' = w := (List.cons.inj (h'.2.symm.trans h.2)).1

/-- A step that takes a SEND appends the waveform of the frame it leaves, every other step nothing (R26). -/
theorem StepCase.txlog {s u : State} (h : StepCase s u) :
    (TakesSend s ∧ u.txlog = s.txlog ++ [⟨enc u.fr, 38⟩]) ∨ (¬ TakesSend s ∧ u.txlog = s.txlog) := by
  cases h with
  | reset ha => exact .inr ⟨fun ⟨_, _, _, ht, _⟩ => ht.1 ha, rfl⟩
  | idle hp => exact .inr ⟨fun ⟨_, _, _, ht, _⟩ => List.cons_ne_nil _ _ (ht.2.symm.trans hp), rfl⟩
  | illegal ht hd =>
    refine .inr ⟨fun ⟨_, _, _, ht', hd', _⟩ => ?_, rfl⟩
    rw [takes_word_unique ht ht', hd] at hd'
    cases hd'
  | @command w rest i ht hd =>
    by_cases hi : isSend i = true
    · exact .inl ⟨⟨w, rest, i, ht, hd, hi⟩, by simp [handOffsOf, hi]⟩
    · refine .inr ⟨fun ⟨_, _, _, ht', hd', hi'⟩ => hi ?_, by simp [handOffsOf, hi]⟩
      rw [takes_word_unique ht ht', hd] at hd'
      cases hd'
      exact hi'

/-- The response of any command is one the machine can have delivered (R27). -/
theorem responseOf_sound (i : Instr) (f : Frame) : Response.Sound (responseOf i f) := by
  cases i with
  | encode => exact ⟨nofun, fun w hw => ⟨rfl, rfl, f, (Option.some.inj hw).symm⟩⟩
  | setTemp | setFan | setMode | setPower | setSwing | powerOff | powerOn | checksum | send => exact ⟨nofun, nofun⟩

/-- A step delivers no response or one, and a sound one (R27). -/
theorem StepCase.respLog {s u : State} (h : StepCase s u) :
    u.respLog = s.respLog ∨ ∃ r : Response, Response.Sound r ∧ u.respLog = s.respLog ++ [r] := by
  cases h with
  | reset => exact .inl rfl
  | idle => exact .inl rfl
  | illegal => exact .inr ⟨⟨.illegal, 0x00, none⟩, ⟨fun _ => ⟨rfl, rfl⟩, nofun⟩, rfl⟩
  | @command _ rest i =>
    by_cases hcut : isCutShort i { s with port := rest } = true
    · exact .inl (by rw [commandResult_respLog, if_pos hcut])
    · exact .inr ⟨_, responseOf_sound i s.fr, by rw [commandResult_respLog, if_neg hcut]⟩

end Sys2Proof.Machine
end

section
/-! SUPPORT. Family 10_state: the invariant, at launch, over a step, and in every reachable state (R30 to R32). -/

namespace Sys2Proof.Machine

open Sys2Proof.Claim

/-- The invariant speaks of the frame, the two records and the parameters only. -/
theorem inv_congr {s t : State} (hs : Inv s) (hfr : t.fr = s.fr) (htx : t.txlog = s.txlog)
    (hresp : t.respLog = s.respLog) (hpar : t.params = s.params) : Inv t where
  admissible := hpar ▸ hs.admissible
  fixedBytes := hfr ▸ hs.fixedBytes
  checksumOrOff := hfr ▸ hs.checksumOrOff
  powerCode := hfr ▸ hs.powerCode
  powerLowKept := hfr ▸ hpar ▸ hs.powerLowKept
  swingLowKept := hfr ▸ hpar ▸ hs.swingLowKept
  handOffs := htx ▸ hs.handOffs
  responses := hresp ▸ hs.responses

/-- The launch state of admissible parameters has the invariant (R30, R107). -/
theorem launch_inv {p : Params} (hp : p.Admissible) : Inv (State.launch p) where
  admissible := hp
  fixedBytes := hp.1
  checksumOrOff := .inl hp.2.2
  powerCode := .inl hp.2.1
  powerLowKept := .inl rfl
  swingLowKept := .inl rfl
  handOffs := nofun
  responses := nofun

theorem StepCase.keeps_fixedBytes {s u : State} (h : StepCase s u) (hp : s.params.Admissible) (hs : FixedBytes s.fr) :
    FixedBytes u.fr :=
  h.keeps_frame hp.1 hs fun i => frameAfter_fixedBytes _ i hs

theorem StepCase.keeps_checksumOrOff {s u : State} (h : StepCase s u) (hp : s.params.Admissible)
    (hs : ChecksumOrOff s.fr) : ChecksumOrOff u.fr :=
  h.keeps_frame (.inl hp.2.2) hs fun i => frameAfter_checksumOrOff _ i hs

/-- A hand-off made by a step is that of the frame it leaves, so R31 and R32 of that frame make it sound (R26). -/
theorem StepCase.keeps_handOffs {s u : State} (h : StepCase s u) (hfix : FixedBytes u.fr) (hsum : ChecksumOrOff u.fr)
    (hs : ∀ x ∈ s.txlog, HandOff.Sound x) : ∀ x ∈ u.txlog, HandOff.Sound x := by
  rcases h.txlog with ⟨-, htx⟩ | ⟨-, htx⟩
  · rw [htx, List.forall_mem_append, List.forall_mem_singleton]
    exact ⟨hs, rfl, u.fr, hfix, hsum, rfl⟩
  · rw [htx]; exact hs

theorem StepCase.keeps_responses {s u : State} (h : StepCase s u) (hs : ∀ r ∈ s.respLog, Response.Sound r) :
    ∀ r ∈ u.respLog, Response.Sound r := by
  rcases h.respLog with hresp | ⟨r, hr, hresp⟩
  · rw [hresp]; exact hs
  · rw [hresp, List.forall_mem_append, List.forall_mem_singleton]; exact ⟨hs, hr⟩

/-- A field that a command keeps or clears stays what it was at reset, or 0. -/
theorem kept_or_zero {n : Nat} {field fieldAfter resetField : BitVec n} (hs : field = resetField ∨ field = 0)
    (hcmd : fieldAfter = field ∨ fieldAfter = 0) : fieldAfter = resetField ∨ fieldAfter = 0 := by
  rcases hcmd with h | h
  · rw [h]; exact hs
  · exact .inr h

/-- Every step keeps the invariant. -/
theorem StepCase.keeps_inv {s u : State} (h : StepCase s u) (hs : Inv s) : Inv u where
  admissible := h.params ▸ hs.admissible
  fixedBytes := h.keeps_fixedBytes hs.admissible hs.fixedBytes
  checksumOrOff := h.keeps_checksumOrOff hs.admissible hs.checksumOrOff
  powerCode := h.keeps_frame (P := fun f => pwrCode f = 0x3 ∨ pwrCode f = 0xC) (.inl hs.admissible.2.1) hs.powerCode
    fun i => (frameAfter_pwrCode _ i s.fr).elim (fun hk => hk ▸ hs.powerCode) id
  powerLowKept := h.params ▸ h.keeps_frame
    (P := fun f => powerLow f = powerLow s.params.resetFrame ∨ powerLow f = 0) (.inl rfl) hs.powerLowKept
    fun i => kept_or_zero hs.powerLowKept (frameAfter_powerLow _ i s.fr)
  swingLowKept := h.params ▸ h.keeps_frame
    (P := fun f => swingLow f = swingLow s.params.resetFrame ∨ swingLow f = 0) (.inl rfl) hs.swingLowKept
    fun i => kept_or_zero hs.swingLowKept (frameAfter_swingLow _ i s.fr)
  handOffs := h.keeps_handOffs (h.keeps_fixedBytes hs.admissible hs.fixedBytes)
    (h.keeps_checksumOrOff hs.admissible hs.checksumOrOff) hs.handOffs
  responses := h.keeps_responses hs.responses

/-- Settles O54: a step is one of four kinds (`StepCase`), and `StepCase.keeps_inv` goes through the invariant's parts. -/
theorem stepKeepsInvariant : Obligations.StepKeepsInvariant := by
  unfold Obligations.StepKeepsInvariant
  intro s u hs h
  exact (StepCase.of_step h).keeps_inv hs

/-- The invariant in every reachable state, with the parameters of launch. -/
theorem reachable_inv {p : Params} (hp : p.Admissible) {s : State} (h : Reachable p s) : Inv s ∧ s.params = p := by
  induction h with
  | launch => exact ⟨launch_inv hp, rfl⟩
  | step _ hstep ih =>
    have hcase := StepCase.of_step hstep
    exact ⟨hcase.keeps_inv ih.1, hcase.params.trans ih.2⟩
  | present _ _ ih => exact ⟨inv_congr ih.1 rfl rfl rfl rfl, ih.2⟩
  | assertReset _ ih => exact ⟨inv_congr ih.1 rfl rfl rfl rfl, ih.2⟩
  | assertResetDuringSend _ ih => exact ⟨inv_congr ih.1 rfl rfl rfl rfl, ih.2⟩

/-- Settles O56, by induction on reachability. -/
theorem reachableStatesHaveInvariant : Obligations.ReachableStatesHaveInvariant := by
  unfold Obligations.ReachableStatesHaveInvariant
  intro p hp s h
  exact reachable_inv hp h

/-- Settles O52: the step lemma for R31's bytes, and the invariant for the reachable states. -/
theorem constantBytesStayConstant : Obligations.ConstantBytesStayConstant := by
  unfold Obligations.ConstantBytesStayConstant
  refine ⟨fun s hp hs => ?_, fun p s hp h => (reachable_inv hp h).1.fixedBytes⟩
  obtain ⟨u, hstep, hcase⟩ := step_total s
  exact ⟨u, hstep, hcase.keeps_fixedBytes hp hs⟩

/-- Settles O53: the step lemma for R32, the shape of a mutator's frame, and the invariant for the reachable states. -/
theorem checksumHoldsOrFrameIsOff : Obligations.ChecksumHoldsOrFrameIsOff := by
  unfold Obligations.ChecksumHoldsOrFrameIsOff
  rw [off_eq_offFrame]
  refine ⟨fun s hp hs => ?_, fun i s hi => ⟨_, exec_eq i s, (frameAfter_of_isMutator hi _ _).csum⟩,
    fun p s hp h => (reachable_inv hp h).1.checksumOrOff⟩
  obtain ⟨u, hstep, hcase⟩ := step_total s
  exact ⟨u, hstep, hcase.keeps_checksumOrOff hp hs⟩

end Sys2Proof.Machine
end

section
/-! SUPPORT. Family 10_state: the write matrix, the Off classification, R33's fields, TxLog and the responses. -/

namespace Sys2Proof.Machine

open Sys2Proof.Claim

/-! ### The write matrix (R18) -/

theorem insertFan_and_0F (l c : Byte) : insertFan l c &&& 0x0F#8 = c &&& 0x0F#8 := by
  apply BitVec.eq_of_toNat_eq; rw [and_0F_toNat, and_0F_toNat, insertFan_toNat]; omega

theorem insertMode_and_F0 (m c : Byte) : insertMode m c &&& 0xF0#8 = c &&& 0xF0#8 := by
  apply BitVec.eq_of_toNat_eq; rw [and_F0_toNat, and_F0_toNat, insertMode_toNat]; omega

theorem insertPower_and_0F (p : Bool) (c : Byte) : insertPower p c &&& 0x0F#8 = c &&& 0x0F#8 := by
  apply BitVec.eq_of_toNat_eq; rw [and_0F_toNat, and_0F_toNat, insertPower_toNat]; split <;> omega

theorem insertSwing_and_3F (sw : Bool) (c : Byte) : insertSwing sw c &&& 0x3F#8 = c &&& 0x3F#8 := by
  apply BitVec.eq_of_toNat_eq; rw [and_3F_toNat, and_3F_toNat, insertSwing_toNat]; split <;> omega

/-- The bits that the mask `k` picks are the same in both frames. -/
def AgreeOn (k f g : Frame) : Prop := ∀ j : Fin 8, frameByte g j &&& frameByte k j = frameByte f j &&& frameByte k j

/-- `AgreeOn`, byte by byte. -/
theorem agreeOn_iff (k f g : Frame) :
    AgreeOn k f g ↔
      g.marker &&& k.marker = f.marker &&& k.marker ∧ g.fanMode &&& k.fanMode = f.fanMode &&& k.fanMode ∧
      g.temp2 &&& k.temp2 = f.temp2 &&& k.temp2 ∧ g.rsv3 &&& k.rsv3 = f.rsv3 &&& k.rsv3 ∧
      g.rsv4 &&& k.rsv4 = f.rsv4 &&& k.rsv4 ∧ g.power &&& k.power = f.power &&& k.power ∧
      g.swing &&& k.swing = f.swing &&& k.swing ∧ g.csum &&& k.csum = f.csum &&& k.csum := by
  simp [AgreeOn, Fin.forall_fin_succ, frameByte]

/-- A row of zeros keeps nothing. -/
theorem agreeOn_zero (f g : Frame) : AgreeOn ⟨0, 0, 0, 0, 0, 0, 0, 0⟩ f g := by simp [agreeOn_iff]

/-- POWER_ON's row of the write matrix. -/
theorem applyPowerOn_agreeOn (b : Bool) (m l t : Byte) (sw : Bool) (f : Frame) :
    AgreeOn (keptBits b (.powerOn m l t sw)) f (applyPowerOn b m l t sw f) := by
  cases b <;> simp [agreeOn_iff, keptBits, applyPowerOn, insertPower_and_0F, insertSwing_and_3F]

/-- Every command keeps the bits outside its row of the write matrix. -/
theorem frameAfter_agreeOn (b : Bool) (i : Instr) (f : Frame) : AgreeOn (keptBits b i) f (frameAfter b i f) := by
  cases i with
  | setTemp t => simp [agreeOn_iff, keptBits, frameAfter]
  | setFan l => simp [agreeOn_iff, keptBits, frameAfter, insertFan_and_0F]
  | setMode m => simp [agreeOn_iff, keptBits, frameAfter, insertMode_and_F0]
  | setPower p => simp [agreeOn_iff, keptBits, frameAfter, insertPower_and_0F]
  | setSwing sw => simp [agreeOn_iff, keptBits, frameAfter, insertSwing_and_3F]
  | powerOff => exact agreeOn_zero _ _
  | powerOn m l t sw => exact applyPowerOn_agreeOn b m l t sw f
  | checksum | encode => exact fun _ => rfl
  | send p m l t sw =>
    cases p
    · exact agreeOn_zero _ _
    · exact applyPowerOn_agreeOn b m l t sw f

/-- Settles O11: `frameAfter_agreeOn` for the commands, and the step of an illegal word and of a reset. -/
theorem writeMatrixBoundsEveryCommand : Obligations.WriteMatrixBoundsEveryCommand := by
  unfold Obligations.WriteMatrixBoundsEveryCommand
  exact ⟨fun i s => ⟨_, exec_eq i s, frameAfter_agreeOn s.params.onSetsPower i s.fr⟩,
    fun _ _ _ _ ht hd => ⟨_, step_takes_illegal ht hd, rfl⟩,
    fun _ ha => ⟨_, step_asserted ha, rfl⟩⟩

/-! ### Off and On (R24, R75) -/

theorem isOff_iff (f : Frame) : isOff f = true ↔ f = offFrame := by rw [isOff, beq_iff_eq]

/-- A frame whose FR7 is the formula's is On. -/
theorem isOn_of_csum {f : Frame} (h : f.csum = checksum f) : isOn f = true := by
  rw [isOn, Bool.not_eq_true', ← Bool.not_eq_true, isOff_iff]; exact summed_ne_offFrame h

/-- Settles O38: off commands write the off-frame, and what a mutator or SEND 1 leaves has the formula's FR7, which the
off-frame has not. -/
theorem offIsLeftByEveryMutator : Obligations.OffIsLeftByEveryMutator := by
  unfold Obligations.OffIsLeftByEveryMutator
  refine ⟨fun f => ⟨isOff_iff f, rfl⟩,
    fun i s hi => ⟨_, exec_eq i s, (isOff_iff _).2 (frameAfter_of_isOffCommand hi _ _)⟩,
    fun i s hi => ?_,
    fun m f t sw s => ⟨_, exec_eq _ s, isOn_of_csum (applyPowerOn_fieldUpdate _ m f t sw s.fr).csum⟩,
    leaves_of_frameAfter (by decide), leaves_of_frameAfter (by decide)⟩
  have hsum := (frameAfter_of_isMutator hi s.params.onSetsPower s.fr).csum
  exact ⟨_, exec_eq i s, isOn_of_csum hsum, hsum⟩

/-! ### FR2's parity and the pair of swing bits (R33) -/

/-- SEND 0 leaves the off-frame (R87). -/
theorem sendFrame_off (b : Bool) (m l t : Byte) (sw : Bool) (f : Frame) :
    sendFrame b false m l t sw f = offFrame := rfl

/-- SEND leaves FR2 even: the off-frame's 0x30, or 2T. -/
theorem sendFrame_temp2_even (b p : Bool) (m l t : Byte) (sw : Bool) (f : Frame) :
    (sendFrame b p m l t sw f).temp2.toNat % 2 = 0 := by
  cases p
  · rw [sendFrame_off]; rfl
  · exact scaleTemp_even t

/-- SEND leaves SWINGBITS 00 or 11: the off-frame's 00, or S twice. -/
theorem sendFrame_swingBits (b p : Bool) (m l t : Byte) (sw : Bool) (f : Frame) :
    swingBits (sendFrame b p m l t sw f) = 0b00 ∨ swingBits (sendFrame b p m l t sw f) = 0b11 := by
  cases p
  · rw [sendFrame_off]; exact .inl rfl
  · exact swingBits_of_insertSwing (sw := sw) (c := f.swing) rfl

/-- The commands that write FR2 leave it even. -/
theorem writesTemp_even (p sw : Bool) (m f t : Byte) (s : State) :
    ∀ i ∈ [Instr.setTemp t, .powerOn m f t sw, .send p m f t sw],
      ∃ u, exec i s = .next u ∧ u.fr.temp2.toNat % 2 = 0 := by
  simp only [List.forall_mem_cons, List.not_mem_nil, false_imp_iff, implies_true, and_true]
  exact ⟨⟨_, exec_setTemp t s, scaleTemp_even t⟩, ⟨_, exec_powerOn m f t sw s, scaleTemp_even t⟩,
    ⟨_, exec_send p m f t sw s, sendFrame_temp2_even ..⟩⟩

/-- The commands that write SWINGBITS leave 00 or 11. -/
theorem writesSwing_pair (p sw : Bool) (m f t : Byte) (s : State) :
    ∀ i ∈ [Instr.setSwing sw, .powerOn m f t sw, .powerOff, .send p m f t sw],
      ∃ u, exec i s = .next u ∧ (swingBits u.fr = 0b00 ∨ swingBits u.fr = 0b11) := by
  simp only [List.forall_mem_cons, List.not_mem_nil, false_imp_iff, implies_true, and_true]
  exact ⟨⟨_, exec_setSwing sw s, swingBits_of_insertSwing (sw := sw) (c := s.fr.swing) rfl⟩,
    ⟨_, exec_powerOn m f t sw s, swingBits_of_insertSwing (sw := sw) (c := s.fr.swing) rfl⟩,
    ⟨_, exec_powerOff s, .inl (by rw [State.respond_fr, State.setFrame_fr]; rfl)⟩,
    ⟨_, exec_send p m f t sw s, sendFrame_swingBits ..⟩⟩

/-- An odd FR2 after a step was there before it or is the reset frame's. -/
theorem StepCase.odd_temp2 {s u : State} (h : StepCase s u) (hodd : u.fr.temp2.toNat % 2 = 1) :
    u.fr.temp2 = s.fr.temp2 ∨ u.fr = s.params.resetFrame := by
  rcases h.frame with hf | hf | ⟨i, hf⟩
  · exact .inr hf
  · exact .inl (by rw [hf])
  · rw [hf] at hodd ⊢
    rcases frameAfter_temp2 s.params.onSetsPower i s.fr with hkept | heven
    · exact .inl hkept
    · omega

/-- SWINGBITS 01 or 10 after a step were there before it or are the reset frame's. -/
theorem StepCase.uneven_swingBits {s u : State} (h : StepCase s u)
    (huneven : swingBits u.fr = 0b01 ∨ swingBits u.fr = 0b10) :
    swingBits u.fr = swingBits s.fr ∨ u.fr = s.params.resetFrame := by
  rcases h.frame with hf | hf | ⟨i, hf⟩
  · exact .inr hf
  · exact .inl (by rw [hf])
  · rw [hf] at huneven ⊢
    rcases frameAfter_swingBits s.params.onSetsPower i s.fr with hkept | hpair
    · exact .inl hkept
    · rcases hpair with h00 | h11
      · rw [h00] at huneven; exact absurd huneven (by decide)
      · rw [h11] at huneven; exact absurd huneven (by decide)

/-- The checksum's swing term is on when either swing bit is set (R60). -/
theorem swingOn_eq_or (c : Byte) : swingOn c = (c.getLsbD 6 || c.getLsbD 7) := by
  revert c; decide

/-- Settles O40. -/
theorem parityAndSwingPairAfterWrites : Obligations.ParityAndSwingPairAfterWrites := by
  unfold Obligations.ParityAndSwingPairAfterWrites
  refine ⟨fun p sw m f t s => ⟨writesTemp_even p sw m f t s, writesSwing_pair p sw m f t s⟩, fun s => ?_, swingOn_eq_or⟩
  obtain ⟨u, hstep, hcase⟩ := step_total s
  exact ⟨u, hstep, hcase.odd_temp2, hcase.uneven_swingBits⟩

/-! ### TxLog (R26) -/

/-- Settles O50: `StepCase.txlog` says which of the two the step is. -/
theorem onlySendAppendsToTxLog : Obligations.OnlySendAppendsToTxLog := by
  unfold Obligations.OnlySendAppendsToTxLog
  refine ⟨fun p => rfl, fun s => ?_⟩
  obtain ⟨u, hstep, hcase⟩ := step_total s
  rcases hcase.txlog with ⟨hsend, htx⟩ | ⟨hnot, htx⟩
  · exact ⟨u, hstep, fun _ => htx, fun hno => absurd hsend hno⟩
  · exact ⟨u, hstep, fun hyes => absurd hyes hnot, fun _ => htx⟩

/-! ### One response per word (R27, R43) -/

theorem responseOf_status (i : Instr) (f : Frame) : (responseOf i f).status = .ok := by
  cases i <;> rfl

/-- With reset idle, a step takes the oldest word, delivers its one response and leaves reset idle. -/
theorem step_answers_word {s : State} {w : CmdWord} {rest : List CmdWord} (hidle : s.resetIn = .idle)
    (hport : s.port = w :: rest) :
    ∃ (u : State) (r : Response), step s = .next u ∧ u.port = rest ∧ u.resetIn = .idle ∧
      u.respLog = s.respLog ++ [r] ∧ r.status = statusOf (decode w) := by
  have ht : Takes s w rest := ⟨by rw [hidle]; decide, hport⟩
  cases hd : decode w with
  | illegal r => exact ⟨_, _, step_takes_illegal ht hd, rfl, hidle, rfl, rfl⟩
  | command i =>
    have hwhole : isCutShort i { s with port := rest } = false := isCutShort_of_idle hidle i
    refine ⟨_, responseOf i s.fr, step_takes_command ht hd, rfl, ?_, ?_, responseOf_status i s.fr⟩
    · rw [commandResult_resetIn, hwhole]; exact hidle
    · rw [commandResult_respLog, hwhole]; rfl

/-- As many steps as words presented take them all and answer each, in order. -/
theorem run_answers_words (ws : List CmdWord) :
    ∀ s : State, s.resetIn = .idle → s.port = ws →
      ∃ (u : State) (rs : List Response), Host.Core.run Sys2Proof.core ws.length s = .next u ∧ u.port = [] ∧
        u.resetIn = .idle ∧ u.respLog = s.respLog ++ rs ∧
        rs.map Response.status = ws.map (fun w => statusOf (decode w)) := by
  induction ws with
  | nil => exact fun s hidle hport => ⟨s, [], rfl, hport, hidle, (List.append_nil _).symm, rfl⟩
  | cons w ws ih =>
    intro s hidle hport
    obtain ⟨t, r, hstep, htport, htidle, htresp, hr⟩ := step_answers_word hidle hport
    obtain ⟨u, rs, hrun, huport, huidle, huresp, hrs⟩ := ih t htidle htport
    refine ⟨u, r :: rs, ?_, huport, huidle, ?_, ?_⟩
    · rw [List.length_cons, run_succ hstep, hrun]
    · rw [huresp, htresp, List.append_assoc, List.singleton_append]
    · rw [List.map_cons, List.map_cons, hr, hrs]

/-- Settles O48, by induction on the words presented. -/
theorem everyPresentedWordIsAnswered : Obligations.EveryPresentedWordIsAnswered := by
  unfold Obligations.EveryPresentedWordIsAnswered
  exact fun s hidle => run_answers_words s.port s hidle rfl

end Sys2Proof.Machine
end

section
/-! SUPPORT. Family 20_memory: FRAME_Q byte by byte, and the host's moves between two steps (R35, R43). -/

namespace Sys2Proof.Machine

open Sys2Proof.Claim

/-! ### FRAME_Q (R35) -/

/-- FRAME_Q holds byte `i` of the frame at bits `8i` to `8i + 7`: it is the base-256 digit `i` of `packFrameQ_toNat`. -/
theorem packFrameQ_byte (f : Frame) (i : Fin 8) : (packFrameQ f).extractLsb' (8 * i.val) 8 = frameByte f i := by
  apply BitVec.eq_of_toNat_eq
  rw [BitVec.extractLsb'_toNat, packFrameQ_toNat, Nat.shiftRight_eq_div_pow]
  have := f.marker.isLt; have := f.fanMode.isLt; have := f.temp2.isLt; have := f.rsv3.isLt
  have := f.rsv4.isLt; have := f.power.isLt; have := f.swing.isLt; have := f.csum.isLt
  fin_cases i <;> simp only [frameByte] <;> omega

/-- Settles O51: `packFrameQ_byte`, and the off-frame's value by evaluation. -/
theorem frameQPacksLittleEndian : Obligations.FrameQPacksLittleEndian := by
  unfold Obligations.FrameQPacksLittleEndian
  refine ⟨fun s i => packFrameQ_byte s.fr i, fun s hoff => ?_⟩
  rw [State.frameQ, hoff]
  decide

/-! ### What the host does between two steps (R43, R107, R108) -/

/-- Announcing a reset for the next SEND's wait does not withdraw one already asserted (log 5). -/
theorem assertResetDuringSend_keeps_asserted {s : State} (h : s.resetIn = .asserted) :
    s.assertResetDuringSend.resetIn = .asserted := by
  rw [State.assertResetDuringSend_of_asserted h, h]

/-- Settles O57: the invariant speaks of none of the inputs (`inv_congr`), and a move of the host changes nothing else. -/
theorem hostMovesKeepInvariantAndPendingReset : Obligations.HostMovesKeepInvariantAndPendingReset := by
  unfold Obligations.HostMovesKeepInvariantAndPendingReset
  intro s w t ht
  simp only [List.mem_cons, List.not_mem_nil, or_false] at ht
  rcases ht with rfl | rfl | rfl
  · exact ⟨fun hs => inv_congr hs rfl rfl rfl rfl, id, rfl, rfl, rfl, rfl⟩
  · exact ⟨fun hs => inv_congr hs rfl rfl rfl rfl, fun _ => rfl, rfl, rfl, rfl, rfl⟩
  · exact ⟨fun hs => inv_congr hs rfl rfl rfl rfl, assertResetDuringSend_keeps_asserted, rfl, rfl, rfl, rfl⟩

end Sys2Proof.Machine
end

section
/-! SUPPORT. Family 20_memory: a command run twice leaves the frame that it leaves once (R41). -/

namespace Sys2Proof.Machine

open Sys2Proof.Claim

/-! ### Each field write is idempotent -/

theorem insertFan_insertFan (l c : Byte) : insertFan l (insertFan l c) = insertFan l c := by
  apply BitVec.eq_of_toNat_eq; rw [insertFan_toNat, insertFan_toNat]; omega

theorem insertMode_insertMode (m c : Byte) : insertMode m (insertMode m c) = insertMode m c := by
  apply BitVec.eq_of_toNat_eq; rw [insertMode_toNat, insertMode_toNat]; omega

theorem insertPower_insertPower (p : Bool) (c : Byte) : insertPower p (insertPower p c) = insertPower p c := by
  apply BitVec.eq_of_toNat_eq; rw [insertPower_toNat, insertPower_toNat]; split <;> omega

theorem insertSwing_insertSwing (sw : Bool) (c : Byte) : insertSwing sw (insertSwing sw c) = insertSwing sw c := by
  apply BitVec.eq_of_toNat_eq; rw [insertSwing_toNat, insertSwing_toNat]; split <;> omega

/-! ### So is every command on the frame -/

/-- Frames with the same FR0 to FR6 are recomputed to one frame, since the checksum never reads FR7 (R62). -/
theorem recompute_congr {f g : Frame} (hmarker : f.marker = g.marker) (hfan : f.fanMode = g.fanMode)
    (htemp : f.temp2 = g.temp2) (hrsv3 : f.rsv3 = g.rsv3) (hrsv4 : f.rsv4 = g.rsv4) (hpower : f.power = g.power)
    (hswing : f.swing = g.swing) : recompute f = recompute g := by
  simp only [recompute, checksum, checksumSum, checksumSub, hmarker, hfan, htemp, hrsv3, hrsv4, hpower, hswing]

/-- POWER_ON overwrites FR1 and FR2, and writes its other fields as the setters do. -/
theorem applyPowerOn_idem (b : Bool) (m l t : Byte) (sw : Bool) (f : Frame) :
    applyPowerOn b m l t sw (applyPowerOn b m l t sw f) = applyPowerOn b m l t sw f := by
  have hswing := insertSwing_insertSwing sw f.swing
  cases b
  · exact recompute_congr rfl rfl rfl rfl rfl rfl hswing
  · exact recompute_congr rfl rfl rfl rfl rfl (insertPower_insertPower true f.power) hswing

/-- A command finds, the second time, every field as it writes it. -/
theorem frameAfter_idem (b : Bool) (i : Instr) (f : Frame) :
    frameAfter b i (frameAfter b i f) = frameAfter b i f := by
  cases i with
  | setFan l => exact recompute_congr rfl (insertFan_insertFan l f.fanMode) rfl rfl rfl rfl rfl
  | setMode m => exact recompute_congr rfl (insertMode_insertMode m f.fanMode) rfl rfl rfl rfl rfl
  | setPower p => exact recompute_congr rfl rfl rfl rfl rfl (insertPower_insertPower p f.power) rfl
  | setSwing sw => exact recompute_congr rfl rfl rfl rfl rfl rfl (insertSwing_insertSwing sw f.swing)
  | powerOn m l t sw => exact applyPowerOn_idem b m l t sw f
  | setTemp | powerOff | checksum | encode => rfl
  | send p m l t sw =>
    cases p
    · rfl
    · exact applyPowerOn_idem b m l t sw f

/-! ### Queries and SEND -/

/-- CHECKSUM and ENCODE leave the frame and hand nothing over (R72, R82). -/
theorem frameAfter_of_query {i : Instr} (hi : i = .checksum ∨ i = .encode) (b : Bool) (f : Frame) :
    frameAfter b i f = f ∧ handOffsOf i f = [] := by
  rcases hi with rfl | rfl
  · exact ⟨rfl, rfl⟩
  · exact ⟨rfl, rfl⟩

/-- SEND hands over the waveform of the frame it leaves (R92). -/
theorem handOffsOf_send {i : Instr} (hi : isSend i = true) (f : Frame) : handOffsOf i f = [⟨enc f, 38⟩] := by
  rw [handOffsOf, if_pos hi]

/-- Settles O33: `frameAfter_idem` for the frame, and a command's hand-offs for TxLog. -/
theorem commandsAreIdempotentOnFR : Obligations.CommandsAreIdempotentOnFR := by
  unfold Obligations.CommandsAreIdempotentOnFR
  intro i s
  have hidem := frameAfter_idem s.params.onSetsPower i s.fr
  refine ⟨_, _, exec_eq i s, exec_eq i _, hidem, fun hquery => ?_, fun hsend => ?_⟩
  · obtain ⟨hfr, hnone⟩ := frameAfter_of_query hquery s.params.onSetsPower s.fr
    simp only [hfr, hnone, List.append_nil, and_self]
  · simp only [hidem, handOffsOf_send hsend, List.append_assoc, List.cons_append, List.nil_append]

end Sys2Proof.Machine
end

section
/-! SUPPORT. Family 30_encoding: the opcode map as a function of the fields, and the decoder as that map
(R48 to R54). -/

namespace Sys2Proof

open Sys2Proof.Claim

/-! ### The opcode map -/

/-- What a word with RSV = 00 is, by its opcode and its fields alone (R49, R51). -/
def opcodeRow (opc : Nat) (p s : Bool) (t f m : Byte) : Decoded :=
  match opc with
  | 0x1 => .command (.setTemp t)
  | 0x2 => .command (.setFan f)
  | 0x3 => .command (.setMode m)
  | 0x4 => .command (.setPower p)
  | 0x5 => .command (.setSwing s)
  | 0x6 => .command .powerOff
  | 0x7 => .command (.powerOn m f t s)
  | 0x8 => .command .checksum
  | 0x9 => .command .encode
  | 0xA => .command (.send p m f t s)
  | _ => .illegal .reservedOpcode

/-- The row of opcode `n` is a command of that number or the reserved row, whatever the fields hold. -/
theorem opcodeRow_cases (n : Nat) :
    ((1 ≤ n ∧ n ≤ 0xA) ∧ ∀ p s t f m, ∃ i, opcodeRow n p s t f m = .command i ∧ opcodeNumber i = n) ∨
      ((n = 0 ∨ 0xB ≤ n) ∧ ∀ p s t f m, opcodeRow n p s t f m = .illegal .reservedOpcode) := by
  by_cases h : 1 ≤ n ∧ n ≤ 0xA
  · refine .inl ⟨h, fun p s t f m => ?_⟩
    obtain ⟨hlow, hhigh⟩ := h
    interval_cases n <;> exact ⟨_, rfl, rfl⟩
  · have hn : n = 0 ∨ 0xB ≤ n := by omega
    refine .inr ⟨hn, fun p s t f m => ?_⟩
    rcases hn with rfl | hhigh
    · rfl
    · obtain ⟨k, rfl⟩ := Nat.exists_eq_add_of_le' hhigh
      rfl

/-! ### The decoder is the opcode map -/

theorem decode_of_rsv {w : CmdWord} (h : rsvOf w = 0b00#2) :
    decode w = opcodeRow (opcOf w).toNat (pOf w) (sOf w) (tOf w) (fOf w) (mOf w) := if_pos h

theorem decode_of_rsv_ne {w : CmdWord} (h : rsvOf w ≠ 0b00#2) : decode w = .illegal .reservedBits := if_neg h

theorem decode_packWord (opc : BitVec 4) (p s : Bool) (t f m : Byte) :
    decode (packWord opc p s t f m) = opcodeRow opc.toNat p s t f m := by
  rw [decode_of_rsv (rsvOf_packWord opc p s t f m), opcOf_packWord, pOf_packWord, sOf_packWord, tOf_packWord,
    fOf_packWord, mOf_packWord]

/-- RSV = 00 as arithmetic on the word. -/
theorem rsvOf_eq_zero_iff (w : CmdWord) : rsvOf w = 0b00#2 ↔ w.toNat / 2 ^ 26 % 4 = 0 := by
  rw [← rsvOf_toNat, ← BitVec.toNat_inj]; rfl

/-- A command's opcode is 1 to 10, its RSV is 00 (R49). -/
theorem decode_command_iff (w : CmdWord) (n : Nat) :
    (∃ i, decode w = .command i ∧ opcodeNumber i = n) ↔
      w.toNat / 2 ^ 26 % 4 = 0 ∧ w.toNat / 2 ^ 28 = n ∧ 1 ≤ n ∧ n ≤ 0xA := by
  rw [← rsvOf_eq_zero_iff, ← opcOf_toNat]
  by_cases hr : rsvOf w = 0b00#2
  · rw [decode_of_rsv hr]
    rcases opcodeRow_cases (opcOf w).toNat with ⟨hn, hrow⟩ | ⟨hn, hrow⟩
    · obtain ⟨i, hi, hnum⟩ := hrow (pOf w) (sOf w) (tOf w) (fOf w) (mOf w)
      rw [hi]
      constructor
      · rintro ⟨j, hj, rfl⟩
        cases hj
        exact ⟨hr, hnum.symm, by omega⟩
      · rintro ⟨-, rfl, -⟩
        exact ⟨i, rfl, hnum⟩
    · rw [hrow]
      constructor
      · rintro ⟨j, hj, -⟩
        cases hj
      · omega
  · rw [decode_of_rsv_ne hr]
    constructor
    · rintro ⟨j, hj, -⟩
      cases hj
    · rintro ⟨h, -⟩
      exact absurd h hr

/-- A word is a command or illegal, never both (R53). -/
theorem decode_illegal_iff_not_command (w : CmdWord) :
    (∃ r, decode w = .illegal r) ↔ ¬ ∃ i, decode w = .command i := by
  cases decode w with
  | command i => simp
  | illegal r => simp

/-! ### Decoding what was encoded -/

/-- Each command is the row of the opcode under which the encoder packs it. -/
theorem decode_encode (i : Instr) : decode (encode i) = .command i := by
  cases i <;> exact decode_packWord _ _ _ _ _ _

/-- Settles O19: the encoder packs a command's operands under its opcode, and the decoder reads that row again. -/
theorem decodeOfEncodeIsTheCommand : Obligations.DecodeOfEncodeIsTheCommand := by
  unfold Obligations.DecodeOfEncodeIsTheCommand
  exact fun i _ => decode_encode i

end Sys2Proof
end

section
/-! SUPPORT. Family 30_encoding: the decoder by arithmetic on the word, and its illegal words (R48 to R54, R94). -/

namespace Sys2Proof

open Sys2Proof.Machine Sys2Proof.Claim

/-! ### Exactly the reserved words are illegal (R51 to R53) -/

theorem isCommand_iff (w : CmdWord) :
    (∃ i, decode w = .command i) ↔
      1 ≤ w.toNat / 2 ^ 28 ∧ w.toNat / 2 ^ 28 ≤ 0xA ∧ w.toNat / 2 ^ 26 % 4 = 0 := by
  constructor
  · rintro ⟨i, hi⟩
    obtain ⟨hrsv, hopc, hlow, hhigh⟩ := (decode_command_iff w _).1 ⟨i, hi, rfl⟩
    rw [hopc]
    exact ⟨hlow, hhigh, hrsv⟩
  · rintro ⟨hlow, hhigh, hrsv⟩
    obtain ⟨i, hi, -⟩ := (decode_command_iff w _).2 ⟨hrsv, rfl, hlow, hhigh⟩
    exact ⟨i, hi⟩

theorem isIllegal_iff (w : CmdWord) :
    (∃ r, decode w = .illegal r) ↔
      w.toNat / 2 ^ 28 = 0 ∨ 0xB ≤ w.toNat / 2 ^ 28 ∨ w.toNat / 2 ^ 26 % 4 ≠ 0 := by
  rw [decode_illegal_iff_not_command, isCommand_iff]
  omega

/-- Settles O23. -/
theorem illegalWordsAreTheReservedOnes : Obligations.IllegalWordsAreTheReservedOnes := by
  unfold Obligations.IllegalWordsAreTheReservedOnes
  exact fun w => ⟨isIllegal_iff w, isCommand_iff w⟩

/-- Settles O43: a reserved word does not decode (`isIllegal_iff`), and the step answers it ILLEGAL
(`step_takes_illegal`). -/
theorem illegalWordChangesNothing : Obligations.IllegalWordChangesNothing := by
  unfold Obligations.IllegalWordChangesNothing
  refine ⟨fun s w rest htakes hreserved => ?_, rfl⟩
  obtain ⟨r, hr⟩ := (isIllegal_iff w).2 hreserved
  exact step_takes_illegal htakes hr

/-! ### The decoder by arithmetic on the word (R48, R49, R54) -/

/-- A byte is the number it stands for. -/
theorem byte_eq_ofNat {b : Byte} {n : Nat} (h : b.toNat = n) : b = BitVec.ofNat 8 n := by
  rw [← h, BitVec.ofNat_toNat, BitVec.setWidth_eq]

/-- A one-bit field is set when its number is 1. -/
theorem bit_eq_beq_one {b : Bool} {n : Nat} (h : b.toNat = n) : b = (n == 1) := by
  subst h
  cases b <;> rfl

/-- With RSV = 00, the word's row by its quotients and remainders. -/
theorem decode_by_arithmetic {w : CmdWord} (h : w.toNat / 2 ^ 26 % 4 = 0) :
    decode w = opcodeRow (w.toNat / 2 ^ 28) (w.toNat / 2 ^ 25 % 2 == 1) (w.toNat / 2 ^ 24 % 2 == 1)
      (BitVec.ofNat 8 (w.toNat / 2 ^ 16 % 256)) (BitVec.ofNat 8 (w.toNat / 2 ^ 8 % 256))
      (BitVec.ofNat 8 (w.toNat % 256)) := by
  rw [decode_of_rsv ((rsvOf_eq_zero_iff w).2 h), opcOf_toNat, ← bit_eq_beq_one (pOf_toNat w),
    ← bit_eq_beq_one (sOf_toNat w), ← byte_eq_ofNat (tOf_toNat w), ← byte_eq_ofNat (fOf_toNat w),
    ← byte_eq_ofNat (mOf_toNat w)]

/-- Settles O22: each clause is a row of the opcode map at the word's arithmetic fields, or a reserved word. -/
theorem decoderFollowsOpcodeMap : Obligations.DecoderFollowsOpcodeMap := by
  unfold Obligations.DecoderFollowsOpcodeMap
  refine ⟨fun w => ⟨fun hrsv => (isIllegal_iff w).2 (.inr (.inr hrsv)), fun hrsv => ?_⟩, _, rfl⟩
  have hrow := decode_by_arithmetic hrsv
  refine ⟨fun h => (isIllegal_iff w).2 (.inl h), ?_, ?_, ?_, ?_, ?_, ?_, ?_, ?_, ?_, ?_,
    fun h => (isIllegal_iff w).2 (.inr (.inl h))⟩ <;>
  · intro hopc
    rw [hrow, hopc, opcodeRow]

end Sys2Proof
end

section
/-! SUPPORT. Family 30_encoding: the ignored fields of a word (R50, R57). -/

namespace Sys2Proof

open Sys2Proof.Machine Sys2Proof.Claim

/-! ### Masking a word -/

/-- A word with RSV = 00, masked, is its fields masked and packed again. -/
theorem and_eq_packWord {w : CmdWord} (h : rsvOf w = 0b00#2) (k : CmdWord) :
    w &&& k = packWord (opcOf w &&& opcOf k) (pOf w && pOf k) (sOf w && sOf k) (tOf w &&& tOf k) (fOf w &&& fOf k)
      (mOf w &&& mOf k) := by
  have hr : rsvOf (w &&& k) = 0b00#2 := by rw [rsvOf_and, h, BitVec.zero_and]
  rw [← opcOf_and, ← pOf_and, ← sOf_and, ← tOf_and, ← fOf_and, ← mOf_and, packWord_fields hr]

/-- Every opcode looks at the whole of OPC. -/
theorem opcOf_usedBits (n : Nat) : opcOf (usedBits n) = BitVec.allOnes 4 := by
  unfold usedBits
  split <;> rfl

/-- Every opcode looks at the whole of RSV. -/
theorem rsvOf_usedBits (n : Nat) : rsvOf (usedBits n) = BitVec.allOnes 2 := by
  unfold usedBits
  split <;> rfl

theorem and_FF (b : Byte) : b &&& 0xFF#8 = b := BitVec.and_allOnes

/-! ### The encoder clears the ignored fields -/

/-- Field by field: a used field is masked with ones, an ignored one with zeros, as the encoder writes it. -/
theorem encode_of_decode {w : CmdWord} {i : Instr} (h : decode w = .command i) :
    encode i = w &&& usedBits (opcodeNumber i) := by
  obtain ⟨hrsv, hcases⟩ := decode_command_cases h
  rw [and_eq_packWord hrsv, opcOf_usedBits, BitVec.and_allOnes]
  rcases hcases with ⟨ho, rfl⟩ | ⟨ho, rfl⟩ | ⟨ho, rfl⟩ | ⟨ho, rfl⟩ | ⟨ho, rfl⟩ | ⟨ho, rfl⟩ | ⟨ho, rfl⟩ | ⟨ho, rfl⟩
    | ⟨ho, rfl⟩ | ⟨ho, rfl⟩
  all_goals simp [ho, encode, opcodeNumber, usedBits, pOf, sOf, tOf, fOf, mOf, and_FF]

/-- Settles O20. -/
theorem encodeOfDecodeClearsIgnoredBits : Obligations.EncodeOfDecodeClearsIgnoredBits := by
  unfold Obligations.EncodeOfDecodeClearsIgnoredBits
  exact fun _ _ h => encode_of_decode h

/-! ### Masking with the used bits changes no decode -/

/-- Why a word is illegal is a matter of its OPC and RSV alone (R51, R52). -/
theorem decode_illegal_congr {w v : CmdWord} {r : IllegalReason} (hopc : opcOf v = opcOf w) (hrsv : rsvOf v = rsvOf w)
    (h : decode w = .illegal r) : decode v = .illegal r := by
  by_cases hr : rsvOf w = 0b00#2
  · rw [decode_of_rsv hr] at h
    rw [decode_of_rsv (hrsv.trans hr), hopc]
    rcases opcodeRow_cases (opcOf w).toNat with ⟨-, hrow⟩ | ⟨-, hrow⟩
    · obtain ⟨i, hi, -⟩ := hrow (pOf w) (sOf w) (tOf w) (fOf w) (mOf w)
      rw [hi] at h
      cases h
    · rw [hrow, ← h, hrow]
  · rw [decode_of_rsv_ne hr] at h
    rw [decode_of_rsv_ne (hrsv.trans_ne hr), h]

/-- A command's word keeps its decode because it becomes the encoder's word, an illegal one because OPC and RSV stay. -/
theorem decode_and_usedBits (w : CmdWord) : decode (w &&& usedBits (w.toNat / 2 ^ 28)) = decode w := by
  cases hd : decode w with
  | command i =>
    obtain ⟨-, hopc, -⟩ := (decode_command_iff w _).1 ⟨i, hd, rfl⟩
    rw [hopc, ← encode_of_decode hd, decode_encode]
  | illegal r =>
    refine decode_illegal_congr ?_ ?_ hd
    · rw [opcOf_and, opcOf_usedBits, BitVec.and_allOnes]
    · rw [rsvOf_and, rsvOf_usedBits, BitVec.and_allOnes]

/-! ### SEND with P = 0, and the bits that select a command -/

/-- SEND 0 hands over the off-frame, whatever its other operands are (R50, R87). -/
theorem exec_send_off (m f t : Byte) (sw : Bool) (s : State) :
    exec (.send false m f t sw) s =
      .next (((s.setFrame offFrame).transmit (enc offFrame)).respond .ok 0x01 none) := by
  rw [exec_send, sendFrame_off]

/-- The mask 0xFC000000 keeps bits 31..26. -/
theorem and_FC000000_toNat (w : CmdWord) : (w &&& 0xFC000000#32).toNat = w.toNat / 2 ^ 26 * 2 ^ 26 := by
  have hw := w.isLt
  have hshift : w &&& 0xFC000000#32 = (w >>> 26) <<< 26 :=
    (BitVec.shiftLeft_ushiftRight (x := w) (n := 26)).symm
  rw [hshift, BitVec.toNat_shiftLeft, BitVec.toNat_ushiftRight, Nat.shiftRight_eq_div_pow, Nat.shiftLeft_eq]
  omega

/-- Bits 31..26 match a row of the opcode table when OPC is its number and RSV is 00. -/
theorem and_FC000000_eq_iff (w : CmdWord) {n : Nat} (hn : n ≤ 0xA) :
    w &&& 0xFC000000#32 = BitVec.ofNat 32 n <<< 28 ↔ w.toNat / 2 ^ 26 % 4 = 0 ∧ w.toNat / 2 ^ 28 = n := by
  have hw := w.isLt
  rw [← BitVec.toNat_inj, and_FC000000_toNat, BitVec.toNat_shiftLeft, BitVec.toNat_ofNat, Nat.shiftLeft_eq]
  omega

/-- Settles O21. -/
theorem ignoredFieldsChangeNothing : Obligations.IgnoredFieldsChangeNothing := by
  unfold Obligations.IgnoredFieldsChangeNothing
  refine ⟨fun w => (decode_and_usedBits w).symm,
    fun _ _ _ _ _ _ _ _ s => ⟨_, exec_send_off _ _ _ _ s, exec_send_off _ _ _ _ s⟩, fun w n hlow hhigh => ?_⟩
  rw [decode_command_iff, and_FC000000_eq_iff w hhigh]
  exact ⟨fun ⟨hrsv, hopc, _⟩ => ⟨hrsv, hopc⟩, fun ⟨hrsv, hopc⟩ => ⟨hrsv, hopc, hlow, hhigh⟩⟩

end Sys2Proof
end

section
/-! SUPPORT. Family 30_encoding: the assembler's words, and a host's integers in the fields (R9, R55, R57 to R59). -/

namespace Sys2Proof.Machine

open Sys2Proof.Claim

/-! ### Statements to words (R57) -/

theorem fitsByte_iff (n : Nat) : fitsByte n = true ↔ n < 256 := decide_eq_true_iff

theorem fitsBit_iff (n : Nat) : fitsBit n = true ↔ n < 2 := decide_eq_true_iff

theorem byteOperand_toNat {n : Nat} (h : n < 256) : (byteOperand n).toNat = n := by
  rw [byteOperand, BitVec.toNat_ofNat]
  exact Nat.mod_eq_of_lt h

theorem bitOperand_toNat {n : Nat} (h : n < 2) : (bitOperand n).toNat = n := by
  interval_cases n <;> rfl

/-- Operands that fit their fields are packed by shifts. -/
theorem packWord_operands (opc : BitVec 4) {p s t f m : Nat} (hp : p < 2 := by decide) (hs : s < 2 := by decide)
    (ht : t < 256 := by decide) (hf : f < 256 := by decide) (hm : m < 256 := by decide) :
    packWord opc (bitOperand p) (bitOperand s) (byteOperand t) (byteOperand f) (byteOperand m) =
      BitVec.ofNat 32 (opc.toNat <<< 28 + p <<< 25 + s <<< 24 + t <<< 16 + f <<< 8 + m) := by
  rw [packWord_eq_ofNat, bitOperand_toNat hp, bitOperand_toNat hs, byteOperand_toNat ht, byteOperand_toNat hf,
    byteOperand_toNat hm]
  simp only [Nat.shiftLeft_eq]

/-- A statement assembles to its word exactly when its operands fit. -/
theorem assemble_eq_ite {a : AsmStmt} {P : Prop} [Decidable P] {v : CmdWord} (hwf : a.wf = true ↔ P)
    (hword : P → asmWord a = v) : assemble a = if P then some v else none := by
  unfold assemble
  by_cases hP : P
  · rw [if_pos (hwf.2 hP), if_pos hP, hword hP]
  · rw [if_neg (mt hwf.1 hP), if_neg hP]

theorem wf_powerOn_iff (m f t s : Nat) :
    (AsmStmt.powerOn m f t s).wf = true ↔ m < 256 ∧ f < 256 ∧ t < 256 ∧ s < 2 := by
  simp only [AsmStmt.wf, Bool.and_eq_true, fitsByte_iff, fitsBit_iff, and_assoc]

theorem wf_send_iff (p m f t s : Nat) :
    (AsmStmt.send p m f t s).wf = true ↔ p < 2 ∧ m < 256 ∧ f < 256 ∧ t < 256 ∧ s < 2 := by
  simp only [AsmStmt.wf, Bool.and_eq_true, fitsByte_iff, fitsBit_iff, and_assoc]

@[simp] theorem byteOperand_zero : byteOperand 0 = 0#8 := rfl

@[simp] theorem bitOperand_zero : bitOperand 0 = false := rfl

/-- Settles O25: in each row the operands that fit are packed by shifts, and a field without operand is packed as the
operand 0. -/
theorem assemblerFollowsWordTable : Obligations.AssemblerFollowsWordTable := by
  unfold Obligations.AssemblerFollowsWordTable
  intro p m f t s w
  refine ⟨assemble_eq_ite (fitsByte_iff t) fun ht => ?_, assemble_eq_ite (fitsByte_iff f) fun hf => ?_,
    assemble_eq_ite (fitsByte_iff m) fun hm => ?_, assemble_eq_ite (fitsBit_iff p) fun hp => ?_,
    assemble_eq_ite (fitsBit_iff s) fun hs => ?_, rfl,
    assemble_eq_ite (wf_powerOn_iff m f t s) fun ⟨hm, hf, ht, hs⟩ => ?_, rfl, rfl,
    assemble_eq_ite (wf_send_iff p m f t s) fun ⟨hp, hm, hf, ht, hs⟩ => ?_,
    assemble_eq_ite decide_eq_true_iff fun _ => rfl⟩
  · simpa [asmWord, encode] using packWord_operands 0x1#4 (p := 0) (s := 0) (f := 0) (m := 0) (ht := ht)
  · simpa [asmWord, encode] using packWord_operands 0x2#4 (p := 0) (s := 0) (t := 0) (m := 0) (hf := hf)
  · simpa [asmWord, encode] using packWord_operands 0x3#4 (p := 0) (s := 0) (t := 0) (f := 0) (hm := hm)
  · simpa [asmWord, encode] using packWord_operands 0x4#4 (s := 0) (t := 0) (f := 0) (m := 0) (hp := hp)
  · simpa [asmWord, encode] using packWord_operands 0x5#4 (p := 0) (t := 0) (f := 0) (m := 0) (hs := hs)
  · simpa [asmWord, encode] using packWord_operands 0x7#4 (p := 0) (hs := hs) (ht := ht) (hf := hf) (hm := hm)
  · exact packWord_operands 0xA#4 hp hs ht hf hm

/-! ### Pseudo-instructions and examples (R58, R59) -/

/-- Settles O26: SEND_ON is SEND with P = 1 whatever its operands, and the others have none. -/
theorem pseudoInstructionsExpand : Obligations.PseudoInstructionsExpand := by
  unfold Obligations.PseudoInstructionsExpand
  exact ⟨rfl, rfl, fun _ _ _ _ => rfl, rfl, rfl, rfl, rfl⟩

/-- Settles O24, by evaluation. -/
theorem encodingExamplesHold : Obligations.EncodingExamplesHold := by
  unfold Obligations.EncodingExamplesHold
  decide

/-! ### A host's integers in the fields (R9, R55) -/

/-- The temperature field holds twice the host's integer, mod 256. -/
theorem scaleTemp_trunc8 (x : Int) : ((scaleTemp (trunc8 x)).toNat : Int) = 2 * x % 256 := by
  have hx := trunc8_toNat x
  rw [scaleTemp_toNat]
  omega

/-- FANCODE holds one more than the host's level, mod 16. -/
theorem packFanMode_trunc8_high (level : Int) (m : Byte) :
    (((packFanMode (trunc8 level) m).extractLsb' 4 4).toNat : Int) = (1 + level) % 16 := by
  have hlevel := trunc8_toNat level
  rw [high4_toNat, packFanMode_toNat]
  omega

/-- MODECODE holds the host's mode mod 16. -/
theorem packFanMode_trunc8_low (l : Byte) (mode : Int) :
    (((packFanMode l (trunc8 mode)).extractLsb' 0 4).toNat : Int) = mode % 16 := by
  have hmode := trunc8_toNat mode
  rw [low4_toNat, packFanMode_toNat]
  omega

/-- Settles O18: truncation is the residue mod 256, of which each field of POWER_ON keeps its own residue. -/
theorem hostIntegersWrapIntoFields : Obligations.HostIntegersWrapIntoFields := by
  unfold Obligations.HostIntegersWrapIntoFields
  exact ⟨trunc8_toNat, fun celsius level mode sw s => ⟨_, exec_powerOn _ _ _ sw s, scaleTemp_trunc8 celsius,
    packFanMode_trunc8_high level (trunc8 mode), packFanMode_trunc8_low (trunc8 level) mode⟩⟩

end Sys2Proof.Machine
end

section
/-! SUPPORT. Family 40_frame_codec: a command word by its bits 31..26 (R47, R49, R65 to R72). -/

namespace Sys2Proof

/-- A word whose bits 31..26 are an opcode above RSV = 00 is that opcode's row, whatever its other bits hold. -/
theorem decode_of_high6 (opc : BitVec 4) {w : CmdWord} (h : w.extractLsb' 26 6 = opc ++ 0b00#2) :
    decode w = opcodeRow opc.toNat (pOf w) (sOf w) (tOf w) (fOf w) (mOf w) := by
  have hopc : opcOf w = (w.extractLsb' 26 6).extractLsb' 2 4 := by
    apply BitVec.eq_of_toNat_eq
    simp only [opcOf, BitVec.extractLsb'_toNat, Nat.shiftRight_eq_div_pow]; omega
  have hrsv : rsvOf w = (w.extractLsb' 26 6).extractLsb' 0 2 := by
    apply BitVec.eq_of_toNat_eq
    simp only [rsvOf, BitVec.extractLsb'_toNat, Nat.shiftRight_eq_div_pow]; omega
  rw [h, BitVec.extractLsb'_append_eq_left] at hopc
  rw [h, BitVec.extractLsb'_append_eq_right] at hrsv
  rw [decode_of_rsv hrsv, hopc]

end Sys2Proof
end

section
/-! SUPPORT. Family 40_frame_codec: the effect of each command, in the statements' arithmetic (R65 to R70, R72). -/

namespace Sys2Proof.Machine

open Sys2Proof.Claim

/-! ### The operand forms as the statements write them -/

theorem scaleTemp_eq_ofNat (t : Byte) : scaleTemp t = BitVec.ofNat 8 (2 * t.toNat) := by
  rw [scaleTemp, ← trunc8_natCast, Nat.cast_mul, Nat.cast_ofNat]

theorem insertFan_eq_fanModeByte (l c : Byte) : insertFan l c = fanModeByte l.toNat c.toNat :=
  byte_eq_ofNat (insertFan_toNat l c)

theorem insertMode_eq_ofNat (m c : Byte) : insertMode m c = BitVec.ofNat 8 (c.toNat / 16 * 16 + m.toNat % 16) :=
  byte_eq_ofNat (insertMode_toNat m c)

theorem packFanMode_eq_fanModeByte (l m : Byte) : packFanMode l m = fanModeByte l.toNat m.toNat :=
  byte_eq_ofNat (packFanMode_toNat l m)

theorem insertPower_eq_powerByte (p : Bool) (c : Byte) : insertPower p c = powerByte p c :=
  byte_eq_ofNat (insertPower_toNat p c)

theorem insertSwing_eq_swingByte (sw : Bool) (c : Byte) : insertSwing sw c = swingByte sw c :=
  byte_eq_ofNat (insertSwing_toNat sw c)

/-! ### The frame commands commit a frame and answer, and do nothing else (R40) -/

/-- The statements' whole next state is the model's commit and response. -/
theorem respond_setFrame (s : State) (f : Frame) (d : Byte) (w : Option Wave) :
    (s.setFrame f).respond .ok d w = answered s f d w := rfl

/-- Recomputing FR7 is what the statements call summing. -/
theorem recompute_eq_summed (f : Frame) : recompute f = summed f := rfl

/-- Settles O1. -/
theorem setTempDoublesIntoTemp2 : Obligations.SetTempDoublesIntoTemp2 := by
  unfold Obligations.SetTempDoublesIntoTemp2
  refine ⟨fun w h => decode_of_high6 0x1#4 h, fun t s => ?_, fun t s => ⟨_, exec_setTemp t s, scaleTemp_even t⟩,
    leaves_of_frameAfter (by decide)⟩
  rw [exec_setTemp, respond_setFrame, recompute_eq_summed, scaleTemp_eq_ofNat]

/-- Settles O2. -/
theorem setFanWritesLevelPlusOne : Obligations.SetFanWritesLevelPlusOne := by
  unfold Obligations.SetFanWritesLevelPlusOne
  refine ⟨fun w h => decode_of_high6 0x2#4 h, fun l s => ?_, leaves_of_frameAfter (by decide)⟩
  rw [exec_setFan, respond_setFrame, recompute_eq_summed, insertFan_eq_fanModeByte]

/-- Settles O3. -/
theorem setModeWritesLowNibble : Obligations.SetModeWritesLowNibble := by
  unfold Obligations.SetModeWritesLowNibble
  refine ⟨fun w h => decode_of_high6 0x3#4 h, fun m s => ?_, leaves_of_frameAfter (by decide)⟩
  rw [exec_setMode, respond_setFrame, recompute_eq_summed, insertMode_eq_ofNat]

/-- Settles O4: FR7 of the frame is the formula's, and the off-frame's is not. -/
theorem setPowerWritesPowerCode : Obligations.SetPowerWritesPowerCode := by
  unfold Obligations.SetPowerWritesPowerCode
  refine ⟨fun w h => decode_of_high6 0x4#4 h, fun p s => ?_,
    fun s => ⟨_, exec_setPower false s, summed_ne_offFrame rfl⟩,
    leaves_of_frameAfter (by decide), leaves_of_frameAfter (by decide)⟩
  rw [exec_setPower, respond_setFrame, recompute_eq_summed, insertPower_eq_powerByte]

/-- Settles O5. -/
theorem setSwingKeepsLowSixBits : Obligations.SetSwingKeepsLowSixBits := by
  unfold Obligations.SetSwingKeepsLowSixBits
  refine ⟨fun w h => decode_of_high6 0x5#4 h, fun sw s => ?_, leaves_of_frameAfter (by decide)⟩
  rw [exec_setSwing, respond_setFrame, recompute_eq_summed, insertSwing_eq_swingByte]

/-- Settles O6. -/
theorem powerOffWritesLiteralFrame : Obligations.PowerOffWritesLiteralFrame := by
  unfold Obligations.PowerOffWritesLiteralFrame
  exact ⟨fun w h => decode_of_high6 0x6#4 h, exec_powerOff, by decide⟩

/-- Settles O8: the query's own equation, and R32 in the reachable states. -/
theorem checksumQueryStoresNothing : Obligations.ChecksumQueryStoresNothing := by
  unfold Obligations.ChecksumQueryStoresNothing
  refine ⟨fun w h => decode_of_high6 0x8#4 h, exec_checksum, fun p s hp hs hon => ?_, by decide, by decide⟩
  exact ((reachable_inv hp hs).1.checksumOrOff.resolve_right hon).symm

end Sys2Proof.Machine
end

section
/-! SUPPORT. Family 40_frame_codec: the arithmetic laws of the checksum (R60 to R62, R74). -/

namespace Sys2Proof.Machine

/-- Settles O13: the exact difference reduced once, with the terms of `sub` written out. -/
theorem checksumIsExactFormula : Obligations.ChecksumIsExactFormula := by
  unfold Obligations.ChecksumIsExactFormula
  intro f
  have hsub : checksumSub f = 15 * (3 + f.temp2.toNat / 2 / 8) + f.fanMode.toNat / 16 * 15 +
      (if f.swing.getLsbD 6 || f.swing.getLsbD 7 then 180 else 0) := by
    rw [checksumSub_eq, swingOn_eq_or]; omega
  rw [checksum_toNat, hsub, exactSum]

/-- Settles O15: frames that agree on FR0 to FR6 are recomputed to one frame, and so to one FR7. -/
theorem checksumNeverReadsFR7 : Obligations.ChecksumNeverReadsFR7 := by
  unfold Obligations.ChecksumNeverReadsFR7
  intro f g h
  exact congrArg Frame.csum (recompute_congr (h 0 (by decide)) (h 1 (by decide)) (h 2 (by decide)) (h 3 (by decide))
    (h 4 (by decide)) (h 5 (by decide)) (h 6 (by decide)))

/-- Settles O16, by evaluation of the formula on the literal frame. -/
theorem offFrameChecksumIsNotFormula : Obligations.OffFrameChecksumIsNotFormula := by
  unfold Obligations.OffFrameChecksumIsNotFormula
  decide

/-! ### The laws of R61 -/

theorem swingBits_eq_zero_iff (f : Frame) : swingBits f = 0 ↔ f.swing.toNat < 64 := by
  have hhigh := high2_toNat f.swing
  rw [← BitVec.toNat_inj, swingBits, hhigh, show (0 : BitVec 2).toNat = 0 from rfl]
  omega

/-- The swing term by the field SWINGBITS. -/
theorem swingOn_iff_swingBits (f : Frame) : swingOn f.swing = true ↔ swingBits f ≠ 0 := by
  rw [swingOn_iff, decide_eq_true_iff, Ne, swingBits_eq_zero_iff, not_lt]

/-- `sub` as a byte, from the nibbles of FR2 and FR1 and the swing bits (R61 (b)). -/
theorem checksumSub_byte (f : Frame) :
    BitVec.ofNat 8 (checksumSub f) =
      15 * (3 + (f.temp2.extractLsb' 4 4).setWidth 8 + (f.fanMode.extractLsb' 4 4).setWidth 8) +
        (if swingBits f = 0 then 0 else 180) := by
  have hswing : (if swingOn f.swing then 180 else 0) = if swingBits f = 0 then 0 else 180 := by
    rw [ite_cond_congr (propext (swingOn_iff_swingBits f)), ite_not]
  rw [checksumSub_eq, hswing, ← high4_toNat, ← high4_toNat]
  simp only [BitVec.ofNat_add, BitVec.ofNat_mul, BitVec.ofNat_toNat, apply_ite (BitVec.ofNat 8)]
  rfl

/-- `sub` is least with all three fields 0 and greatest with all three full (R61 (c)). -/
theorem checksumSub_bounds (f : Frame) : 45 ≤ checksumSub f ∧ checksumSub f ≤ 675 := by
  have htemp := f.temp2.isLt
  have hfan := f.fanMode.isLt
  rw [checksumSub_eq]
  split <;> omega

/-- A frame with the same `sub` and `d` more in the sum has `d` more in the checksum (R61 (d)). -/
theorem checksum_of_sum_add {f g : Frame} {d : Byte} (hsum : checksumSum g = checksumSum f + d)
    (hsub : checksumSub g = checksumSub f) : checksum g = checksum f + d := by
  rw [checksum_eq_sub, checksum_eq_sub, hsum, hsub]
  ring

/-- Setting two clear swing bits adds 192 to the sum and 180 to `sub`, so 12 in all (R61 (e)). -/
theorem checksum_set_swingBits {f : Frame} (h : swingBits f = 0) :
    checksum { f with swing := f.swing ||| 0xC0#8 } = checksum f + 12 := by
  have hlow := (swingBits_eq_zero_iff f).1 h
  have hset : f.swing ||| 0xC0#8 = f.swing + 0xC0#8 := by
    apply BitVec.eq_of_toNat_eq
    rw [show f.swing ||| 0xC0#8 = insertSwing true f.swing from rfl, insertSwing_toNat, BitVec.toNat_add, if_pos rfl,
      BitVec.toNat_ofNat]
    omega
  have hsum : checksumSum { f with swing := f.swing ||| 0xC0#8 } = checksumSum f + 0xC0#8 := by
    simp only [checksumSum, hset]; ring
  have hsub : checksumSub { f with swing := f.swing ||| 0xC0#8 } = checksumSub f + 180 := by
    have hoff : swingOn f.swing = false := by rw [swingOn_iff, decide_eq_false_iff_not]; omega
    have hon : swingOn (f.swing ||| 0xC0#8) = true := by
      rw [hset, swingOn_iff, BitVec.toNat_add, BitVec.toNat_ofNat, decide_eq_true_iff]; omega
    rw [checksumSub_eq, checksumSub_eq, hon, hoff]
    rfl
  calc checksum { f with swing := f.swing ||| 0xC0#8 }
      = checksumSum f + 0xC0#8 - (BitVec.ofNat 8 (checksumSub f) + BitVec.ofNat 8 180) := by
        rw [checksum_eq_sub, hsum, hsub, BitVec.ofNat_add]
    _ = checksumSum f - BitVec.ofNat 8 (checksumSub f) + (0xC0#8 - BitVec.ofNat 8 180) := by ring
    _ = checksum f + 12 := by rw [checksum_eq_sub]; rfl

/-- The exact integers, truncated once (R61 (c)). -/
theorem checksum_eq_ofInt (f : Frame) :
    checksum f = BitVec.ofInt 8 (((((frameBytes f).take 7).map BitVec.toNat).sum : Int) - (checksumSub f : Int)) := by
  have hexact : ((frameBytes f).take 7 |>.map BitVec.toNat).sum = exactSum f := by
    simp [frameBytes, exactSum]; omega
  have hsum := checksumSum_toNat f
  rw [hexact, checksum]
  exact trunc8_congr (by omega)

/-- Settles O14, law by law. -/
theorem checksumArithmeticLaws : Obligations.ChecksumArithmeticLaws := by
  unfold Obligations.ChecksumArithmeticLaws
  refine ⟨fun f => ?_, fun f => ?_, checksumSub_bounds, ⟨⟨0, 0, 0, 0, 0, 0, 0, 0⟩, by decide⟩,
    ⟨⟨0, 0xFF, 0xFF, 0, 0, 0, 0xFF, 0⟩, by decide⟩, checksum_eq_sub, checksum_eq_ofInt, fun f d => ?_,
    fun f => checksum_set_swingBits⟩
  · rw [high4_toNat]; omega
  · rw [checksum_eq_sub, checksumSub_byte, ← sub_sub]; rfl
  · refine ⟨?_, ?_, ?_, ?_⟩ <;> exact checksum_of_sum_add (by simp only [checksumSum]; ring) rfl

end Sys2Proof.Machine
end

section
/-! SUPPORT. Family 40_frame_codec: field writes side by side, and commands one after another (R71, R76). -/

namespace Sys2Proof.Machine

open Sys2Proof.Claim

/-! ### A sequence of commands and its frame -/

/-- A sequence of commands completes, and each command makes its frame of the one before. -/
theorem execAll_frame (is : List Instr) (s : State) :
    ∃ v, execAll is s = .next v ∧ v.fr = is.foldl (fun f i => frameAfter s.params.onSetsPower i f) s.fr := by
  induction is generalizing s with
  | nil => exact ⟨s, rfl, rfl⟩
  | cons i is ih =>
    rw [execAll, exec_eq]
    exact ih _

/-! ### Setters commute -/

/-- FANCODE and MODECODE are different nibbles of FR1. -/
theorem insertMode_insertFan (m l c : Byte) : insertMode m (insertFan l c) = insertFan l (insertMode m c) := by
  apply BitVec.eq_of_toNat_eq
  rw [insertMode_toNat, insertFan_toNat, insertFan_toNat, insertMode_toNat]; omega

/-- Two different setters commute, here with the lower opcode first: but for SET_FAN and SET_MODE they write different
bytes, and FR7 is recomputed from the final bytes either way. -/
theorem frameAfter_comm_of_lt {i j : Instr} (hi : isSetter i = true) (hj : isSetter j = true)
    (hlt : opcodeNumber i < opcodeNumber j) (b : Bool) (f : Frame) :
    frameAfter b j (frameAfter b i f) = frameAfter b i (frameAfter b j f) := by
  cases i with
  | setTemp t =>
    cases j with
    | setFan | setMode | setPower | setSwing => exact recompute_congr rfl rfl rfl rfl rfl rfl rfl
    | setTemp => simp [opcodeNumber] at hlt
    | powerOff | powerOn | checksum | encode | send => cases hj
  | setFan l =>
    cases j with
    | setMode m => exact recompute_congr rfl (insertMode_insertFan m l f.fanMode) rfl rfl rfl rfl rfl
    | setPower | setSwing => exact recompute_congr rfl rfl rfl rfl rfl rfl rfl
    | setTemp | setFan => simp [opcodeNumber] at hlt
    | powerOff | powerOn | checksum | encode | send => cases hj
  | setMode m =>
    cases j with
    | setPower | setSwing => exact recompute_congr rfl rfl rfl rfl rfl rfl rfl
    | setTemp | setFan | setMode => simp [opcodeNumber] at hlt
    | powerOff | powerOn | checksum | encode | send => cases hj
  | setPower p =>
    cases j with
    | setSwing sw => exact recompute_congr rfl rfl rfl rfl rfl rfl rfl
    | setTemp | setFan | setMode | setPower => simp [opcodeNumber] at hlt
    | powerOff | powerOn | checksum | encode | send => cases hj
  | setSwing sw =>
    cases j with
    | setTemp | setFan | setMode | setPower | setSwing => simp [opcodeNumber] at hlt
    | powerOff | powerOn | checksum | encode | send => cases hj
  | powerOff | powerOn | checksum | encode | send => cases hi

/-- Any two different setters commute on the frame (R76). -/
theorem frameAfter_comm {i j : Instr} (hi : isSetter i = true) (hj : isSetter j = true)
    (hne : opcodeNumber i ≠ opcodeNumber j) (b : Bool) (f : Frame) :
    frameAfter b j (frameAfter b i f) = frameAfter b i (frameAfter b j f) := by
  rcases Nat.lt_or_gt_of_ne hne with hlt | hgt
  · exact frameAfter_comm_of_lt hi hj hlt b f
  · exact (frameAfter_comm_of_lt hj hi hgt b f).symm

/-- Setters are mutators (R12). -/
theorem isMutator_of_isSetter {i : Instr} (h : isSetter i = true) : isMutator i = true := by
  cases i with
  | powerOn => rfl
  | setTemp | setFan | setMode | setPower | setSwing | powerOff | checksum | encode | send => exact h

/-! ### POWER_ON -/

/-- SWINGBITS are written over whatever they were. -/
theorem insertSwing_congr (sw : Bool) {c d : Byte} (h : c.extractLsb' 0 6 = d.extractLsb' 0 6) :
    insertSwing sw c = insertSwing sw d := by
  apply BitVec.eq_of_toNat_eq
  rw [insertSwing_toNat, insertSwing_toNat, ← low6_toNat, ← low6_toNat, h]

/-- POWER_ON's frame as the statements write it. -/
theorem applyPowerOn_eq_onFrame (b : Bool) (m l t : Byte) (sw : Bool) (f : Frame) :
    applyPowerOn b m l t sw f = onFrame b m l t sw f := by
  rw [applyPowerOn, scaleTemp_eq_ofNat, packFanMode_eq_fanModeByte, insertSwing_eq_swingByte, insertPower_eq_powerByte]
  rfl

/-- POWER_ON is its setters in the order of the list: FR1 is SET_FAN's and SET_MODE's together (R71). -/
theorem applyPowerOn_eq_foldl (b : Bool) (m l t : Byte) (sw : Bool) (f : Frame) :
    applyPowerOn b m l t sw f = (settersOf b m l t sw).foldl (fun g i => frameAfter b i g) f := by
  have hfan := packFanMode_eq l m f.fanMode
  cases b
  · exact recompute_congr rfl hfan rfl rfl rfl rfl rfl
  · exact recompute_congr rfl hfan rfl rfl rfl rfl rfl

/-- POWER_ON's setters are setters with different opcodes. -/
theorem settersOf_different (b : Bool) (m l t : Byte) (sw : Bool) :
    (∀ i ∈ settersOf b m l t sw, isSetter i = true) ∧ ((settersOf b m l t sw).map opcodeNumber).Nodup := by
  cases b <;> simp [settersOf, isSetter, opcodeNumber]

/-- In any order, POWER_ON's setters leave POWER_ON's frame. -/
theorem foldl_perm_settersOf {b : Bool} {m l t : Byte} {sw : Bool} {is : List Instr}
    (h : is.Perm (settersOf b m l t sw)) (f : Frame) :
    is.foldl (fun g i => frameAfter b i g) f = applyPowerOn b m l t sw f := by
  obtain ⟨hset, hnodup⟩ := settersOf_different b m l t sw
  have hcomm : ∀ i ∈ settersOf b m l t sw, ∀ j ∈ settersOf b m l t sw, ∀ g,
      frameAfter b j (frameAfter b i g) = frameAfter b i (frameAfter b j g) := by
    intro i hi j hj g
    by_cases hopc : opcodeNumber i = opcodeNumber j
    · rw [List.inj_on_of_nodup_map hnodup hi hj hopc]
    · exact frameAfter_comm (hset i hi) (hset j hj) hopc b g
  rw [applyPowerOn_eq_foldl, h.symm.foldl_eq' hcomm]

/-- Settles O7: POWER_ON's frame in the statement's arithmetic, and as its setters in any order. -/
theorem powerOnSetsUserFields : Obligations.PowerOnSetsUserFields := by
  unfold Obligations.PowerOnSetsUserFields
  refine ⟨fun w h => decode_of_high6 0x7#4 h, fun m l t sw s => ?_, leaves_of_frameAfter (by decide),
    fun s hs => ⟨_, exec_powerOn 1 2 24 false s, ?_⟩, fun m l t sw s is hperm => ?_⟩
  · rw [exec_powerOn, respond_setFrame, applyPowerOn_eq_onFrame]
  · rw [State.respond_fr, State.setFrame_fr, hs]
    generalize s.params.onSetsPower = b
    revert b; decide
  · obtain ⟨v, hv, hfr⟩ := execAll_frame is s
    exact ⟨_, v, exec_powerOn m l t sw s, hv, by rw [hfr, foldl_perm_settersOf hperm]; rfl⟩

/-- Settles O34: setters commute and are idempotent, POWER_OFF forgets, and POWER_ON reads neither FR1, FR2 nor
FR6[7:6]. -/
theorem settersAreIndependent : Obligations.SettersAreIndependent := by
  unfold Obligations.SettersAreIndependent
  refine ⟨fun i j s hi hj hne => ?_, fun i s _ => ?_, fun i s _ => execAll_frame [i, .powerOff] s,
    fun m l t sw s s' hparams hfr => ?_⟩
  · obtain ⟨u, hu, hufr⟩ := execAll_frame [i, j] s
    obtain ⟨v, hv, hvfr⟩ := execAll_frame [j, i] s
    refine ⟨u, v, hu, hv, by rw [hufr, hvfr]; exact frameAfter_comm hi hj hne _ _, ?_⟩
    rw [hufr]
    exact (frameAfter_of_isMutator (isMutator_of_isSetter hj) _ _).csum
  · obtain ⟨u, hu, hufr⟩ := execAll_frame [i] s
    obtain ⟨v, hv, hvfr⟩ := execAll_frame [i, i] s
    exact ⟨u, v, hu, hv, by rw [hufr, hvfr]; exact (frameAfter_idem _ i s.fr).symm⟩
  · obtain ⟨a, b, c, hfr, hlow⟩ := hfr
    refine ⟨_, _, exec_powerOn m l t sw s, exec_powerOn m l t sw s', ?_⟩
    rw [← hparams, hfr]
    exact recompute_congr rfl rfl rfl rfl rfl rfl (insertSwing_congr sw hlow.symm)

end Sys2Proof.Machine
end

section
/-! SUPPORT. Family 40_frame_codec: the residues of T, F and M that a command's effect depends on (R64). -/

namespace Sys2Proof.Machine

theorem scaleTemp_congr {t t' : Byte} (h : t.toNat % 128 = t'.toNat % 128) : scaleTemp t = scaleTemp t' := by
  apply BitVec.eq_of_toNat_eq; rw [scaleTemp_toNat, scaleTemp_toNat]; omega

theorem insertFan_congr {l l' : Byte} (h : l.toNat % 16 = l'.toNat % 16) (c : Byte) :
    insertFan l c = insertFan l' c := by
  apply BitVec.eq_of_toNat_eq; rw [insertFan_toNat, insertFan_toNat]; omega

theorem insertMode_congr {m m' : Byte} (h : m.toNat % 16 = m'.toNat % 16) (c : Byte) :
    insertMode m c = insertMode m' c := by
  apply BitVec.eq_of_toNat_eq; rw [insertMode_toNat, insertMode_toNat]; omega

theorem packFanMode_congr {l l' m m' : Byte} (hl : l.toNat % 16 = l'.toNat % 16) (hm : m.toNat % 16 = m'.toNat % 16) :
    packFanMode l m = packFanMode l' m' := by
  rw [packFanMode_eq l m 0, packFanMode_eq l' m' 0, insertFan_congr hl, insertMode_congr hm]

/-- Two commands with one effect leave one state. -/
theorem exec_both {i j : Instr} {s : State} (h : exec i s = exec j s) :
    ∃ u, exec i s = .next u ∧ exec j s = .next u :=
  ⟨_, exec_eq i s, h ▸ exec_eq i s⟩

/-- Settles O17: every operand form is a function of its operand's residue. -/
theorem operandsCountOnlyByResidue : Obligations.OperandsCountOnlyByResidue := by
  unfold Obligations.OperandsCountOnlyByResidue
  intro t t' l l' m m' ht hl hm sw p s
  have hon (b : Bool) : applyPowerOn b m l t sw s.fr = applyPowerOn b m' l' t' sw s.fr := by
    simp only [applyPowerOn, scaleTemp_congr ht, packFanMode_congr hl hm]
  obtain ⟨u1, h1⟩ : ∃ u, exec (.setTemp t) s = .next u ∧ exec (.setTemp t') s = .next u :=
    exec_both (by rw [exec_setTemp, exec_setTemp, scaleTemp_congr ht])
  obtain ⟨u2, h2⟩ : ∃ u, exec (.setFan l) s = .next u ∧ exec (.setFan l') s = .next u :=
    exec_both (by rw [exec_setFan, exec_setFan, insertFan_congr hl])
  obtain ⟨u3, h3⟩ : ∃ u, exec (.setMode m) s = .next u ∧ exec (.setMode m') s = .next u :=
    exec_both (by rw [exec_setMode, exec_setMode, insertMode_congr hm])
  obtain ⟨u4, h4⟩ : ∃ u, exec (.powerOn m l t sw) s = .next u ∧ exec (.powerOn m' l' t' sw) s = .next u :=
    exec_both (by rw [exec_powerOn, exec_powerOn, hon])
  obtain ⟨u5, h5⟩ : ∃ u, exec (.send p m l t sw) s = .next u ∧ exec (.send p m' l' t' sw) s = .next u :=
    exec_both (by simp only [exec_send, sendFrame, hon])
  exact ⟨u1, u2, u3, u4, u5, h1, h2, h3, h4, h5⟩

end Sys2Proof.Machine
end

section
/-! SUPPORT. Family 41_waveform_encoder: the symbols of a waveform, by kind and by position (R77 to R81, R85, R86). -/

namespace Sys2Proof.Machine

/-! ### The data symbol of a bit -/

/-- The data symbol of a bit reads back as the bit (R84). -/
theorem pulseBit_bitPulse (b : Bool) : pulseBit (markOf (bitPulse b)) (spaceOf (bitPulse b)) = b := by
  cases b <;> decide

theorem bitPulse_ne_hdr (b : Bool) : bitPulse b ≠ .hdr := by cases b <;> decide

theorem bitPulse_ne_gap (b : Bool) : bitPulse b ≠ .gap := by cases b <;> decide

/-! ### Which symbol a duration belongs to (R83) -/

theorem markOf_eq_8000_iff (k : Pulse) : markOf k = 8000 ↔ k = .hdr := by cases k <;> decide

theorem spaceOf_eq_4000_iff (k : Pulse) : spaceOf k = 4000 ↔ k = .hdr := by cases k <;> decide

theorem spaceOf_eq_31000_iff (k : Pulse) : spaceOf k = 31000 ↔ k = .gap := by cases k <;> decide

theorem markOf_ne_31000 (k : Pulse) : markOf k ≠ 31000 := by cases k <;> decide

theorem markOf_ne_4000 (k : Pulse) : markOf k ≠ 4000 := by cases k <;> decide

theorem spaceOf_ne_8000 (k : Pulse) : spaceOf k ≠ 8000 := by cases k <;> decide

/-- No duration of the ROM is above 31000 (R86). -/
theorem pulse_le (k : Pulse) : (markOf k).toNat ≤ 31000 ∧ (spaceOf k).toNat ≤ 31000 := by cases k <;> decide

/-! ### Which symbol stands at a position (R78) -/

theorem pulseAt_eq_hdr_iff (f : Frame) (n : Nat) : pulseAt f n = .hdr ↔ n = 0 ∨ n = 66 := by
  unfold pulseAt
  split_ifs with hhdr hdata0 hgap hdata1
  · exact iff_of_true rfl hhdr
  · exact iff_of_false (bitPulse_ne_hdr _) hhdr
  · exact iff_of_false nofun hhdr
  · exact iff_of_false (bitPulse_ne_hdr _) hhdr
  · exact iff_of_false nofun hhdr

theorem pulseAt_eq_gap_iff (f : Frame) (n : Nat) : pulseAt f n = .gap ↔ n = 65 := by
  unfold pulseAt
  split_ifs with hhdr hdata0 hgap hdata1
  · exact iff_of_false nofun (by omega)
  · exact iff_of_false (bitPulse_ne_gap _) (by omega)
  · exact iff_of_true rfl hgap
  · exact iff_of_false (bitPulse_ne_gap _) hgap
  · exact iff_of_false nofun hgap

/-- The symbols that carry no data are the same for every frame (R81). -/
theorem pulseAt_of_no_data {n : Nat} (h : n = 0 ∨ n = 65 ∨ n = 66 ∨ n = 131) (f g : Frame) :
    pulseAt f n = pulseAt g n := by
  obtain rfl | rfl | rfl | rfl := h <;> rfl

/-- Frame bit `k`: bit `k mod 8` of byte `k / 8` (R78). -/
def frameBit (f : Frame) (k : Nat) : Bool := (frameBytes f)[k / 8]!.getLsbD (k % 8)

theorem frameBytes_getElem! (f : Frame) (i : Fin 8) : (frameBytes f)[i.val]! = frameByte f i := by
  fin_cases i <;> rfl

theorem frameBit_eq (f : Frame) (i : Fin 8) {j : Nat} (hj : j < 8) :
    frameBit f (8 * i.val + j) = (frameByte f i).getLsbD j := by
  rw [frameBit, show (8 * i.val + j) / 8 = i.val by omega, show (8 * i.val + j) % 8 = j by omega, frameBytes_getElem!]

/-- Symbol `1 + 66r + k` is the data symbol of frame bit `k` in repeat `r`. -/
theorem pulseAt_data (f : Frame) {r k : Nat} (hr : r < 2) (hk : k < 64) :
    pulseAt f (1 + 66 * r + k) = bitPulse (frameBit f k) := by
  obtain rfl | rfl : r = 0 ∨ r = 1 := by omega
  · rw [pulseAt, if_neg (by omega), if_pos (by omega), frameBit, show 1 + 66 * 0 + k - 1 = k by omega]
  · rw [pulseAt, if_neg (by omega), if_neg (by omega), if_neg (by omega), if_pos (by omega), frameBit,
      show 1 + 66 * 1 + k - 67 = k by omega]

/-! ### The statements' table (R78) -/

/-- A data symbol's durations in the statements' table are the pulse ROM's. -/
theorem bitPulse_duration (b space : Bool) :
    (if b then (if space then 545 else 1618) else (if space then 1618 else 545)) =
      (if space then spaceOf (bitPulse b) else markOf (bitPulse b)).toNat := by
  cases b <;> cases space <;> rfl

/-- The statements' table is the pulse ROM read at the symbol of each position. -/
theorem symbolDuration_eq (f : Frame) (n : Nat) (space : Bool) :
    Claim.symbolDuration f n space = (if space then spaceOf (pulseAt f n) else markOf (pulseAt f n)).toNat := by
  unfold Claim.symbolDuration pulseAt
  by_cases hhdr : n = 0 ∨ n = 66
  · simp only [if_pos hhdr]
    cases space <;> rfl
  by_cases hdata0 : n ≤ 64
  · simp only [if_neg hhdr, if_pos hdata0]
    exact bitPulse_duration _ space
  by_cases hgap : n = 65
  · simp only [if_neg hhdr, if_neg hdata0, if_pos hgap]
    cases space <;> rfl
  by_cases hdata1 : n ≤ 130
  · simp only [if_neg hhdr, if_neg hdata0, if_neg hgap, if_pos hdata1]
    exact bitPulse_duration _ space
  · simp only [if_neg hhdr, if_neg hdata0, if_neg hgap, if_neg hdata1]
    cases space <;> rfl

/-- Settles O28. -/
theorem pulseRomHoldsFivePairs : Obligations.PulseRomHoldsFivePairs := by
  unfold Obligations.PulseRomHoldsFivePairs
  decide

/-- Settles O27: duration `d` is the mark or the space of symbol `d / 2`, in the loop form as in the table. -/
theorem waveformMatchesSymbolTable : Obligations.WaveformMatchesSymbolTable := by
  unfold Obligations.WaveformMatchesSymbolTable
  intro f d
  rw [symbolDuration_eq, Fin.getElem_fin, enc_getElem]
  rcases Nat.mod_two_eq_zero_or_one d.val with h | h <;> simp [h]

/-! ### The values that stand nowhere else (R83) -/

theorem enc_eq_31000_iff (f : Frame) {d : Nat} (hd : d < 264) : (enc f)[d] = 31000 ↔ d = 131 := by
  rw [enc_getElem]
  split
  · exact iff_of_false (markOf_ne_31000 _) (by omega)
  · rw [spaceOf_eq_31000_iff, pulseAt_eq_gap_iff]; omega

theorem enc_eq_8000_iff (f : Frame) {d : Nat} (hd : d < 264) : (enc f)[d] = 8000 ↔ d = 0 ∨ d = 132 := by
  rw [enc_getElem]
  split
  · rw [markOf_eq_8000_iff, pulseAt_eq_hdr_iff]; omega
  · exact iff_of_false (spaceOf_ne_8000 _) (by omega)

theorem enc_eq_4000_iff (f : Frame) {d : Nat} (hd : d < 264) : (enc f)[d] = 4000 ↔ d = 1 ∨ d = 133 := by
  rw [enc_getElem]
  split
  · exact iff_of_false (markOf_ne_4000 _) (by omega)
  · rw [spaceOf_eq_4000_iff, pulseAt_eq_hdr_iff]; omega

/-- Settles O29: 8000 and 4000 are the header's alone, 31000 the gap's, and the table says where those symbols stand. -/
theorem fixedPositionsAreUnique : Obligations.FixedPositionsAreUnique := by
  unfold Obligations.FixedPositionsAreUnique
  intro f
  refine ⟨by simp only [enc_getElem]; exact ⟨rfl, rfl, rfl, rfl, rfl, rfl, rfl, rfl⟩, fun d => ?_⟩
  simp only [Fin.ext_iff]
  exact ⟨enc_eq_31000_iff f d.isLt, enc_eq_8000_iff f d.isLt, enc_eq_4000_iff f d.isLt⟩

end Sys2Proof.Machine
end

section
/-! SUPPORT. Family 41_waveform_encoder: reading a waveform back, and ENCODE (R81, R82, R84). -/

namespace Sys2Proof.Machine

/-! ### Reading a repeat back (R84) -/

theorem enc_data_mark (f : Frame) {r k : Nat} (hr : r < 2) (hk : k < 64) :
    (enc f)[2 + 132 * r + 2 * k] = markOf (bitPulse (frameBit f k)) := by
  rw [enc_getElem, if_pos (by omega), show (2 + 132 * r + 2 * k) / 2 = 1 + 66 * r + k by omega, pulseAt_data f hr hk]

theorem enc_data_space (f : Frame) {r k : Nat} (hr : r < 2) (hk : k < 64) :
    (enc f)[2 + 132 * r + 2 * k + 1] = spaceOf (bitPulse (frameBit f k)) := by
  rw [enc_getElem, if_neg (by omega), show (2 + 132 * r + 2 * k + 1) / 2 = 1 + 66 * r + k by omega,
    pulseAt_data f hr hk]

/-- A byte is the sum of its bits by weight. -/
theorem ofNat_sum_bits (b : Byte) :
    BitVec.ofNat 8 ((List.range 8).map fun j => (b.getLsbD j).toNat * 2 ^ j).sum = b := by
  have hb := b.isLt
  apply BitVec.eq_of_toNat_eq
  simp only [BitVec.getLsbD, Nat.toNat_testBit, List.range_succ, List.range_zero, List.nil_append, List.cons_append,
    List.map_cons, List.map_nil, List.sum_cons, List.sum_nil, BitVec.toNat_ofNat]
  omega

/-- Either repeat of a frame's waveform reads back as the frame, byte by byte. -/
theorem waveByte_enc (f : Frame) {r : Nat} (hr : r < 2) (i : Fin 8) : waveByte (enc f) r i = frameByte f i := by
  have hbit (j : Nat) (hj : j ∈ List.range 8) :
      (pulseBit ((enc f).toList.getD (markPos r i j) 0) ((enc f).toList.getD (markPos r i j + 1) 0)).toNat * 2 ^ j =
        ((frameByte f i).getLsbD j).toNat * 2 ^ j := by
    have hj8 : j < 8 := List.mem_range.mp hj
    have hk : 8 * i.val + j < 64 := by omega
    rw [markPos, List.getD_eq_getElem _ _ (by rw [enc_toList_length]; omega),
      List.getD_eq_getElem _ _ (by rw [enc_toList_length]; omega), Vector.getElem_toList, Vector.getElem_toList,
      enc_data_mark f hr hk, enc_data_space f hr hk, pulseBit_bitPulse, frameBit_eq f i hj8]
  rw [waveByte, List.map_congr_left hbit, ofNat_sum_bits]

/-- Settles O30: the symbol at a data position is its bit's, and a data symbol reads back as its bit. -/
theorem waveformRoundTripsToFrame : Obligations.WaveformRoundTripsToFrame := by
  unfold Obligations.WaveformRoundTripsToFrame
  refine ⟨fun f r => ?_, fun f r k => ?_, fun f => ?_⟩
  · have hbyte := waveByte_enc f r.isLt
    cases f
    exact (Frame.mk.injEq ..).mpr
      ⟨hbyte 0, hbyte 1, hbyte 2, hbyte 3, hbyte 4, hbyte 5, hbyte 6, hbyte 7⟩
  · have hk : frameBit f k = (frameByte f ⟨k.val / 8, by omega⟩).getLsbD (k.val % 8) := by
      rw [frameBit, ← frameBytes_getElem!]
    rw [enc_data_mark f r.isLt k.isLt, enc_data_space f r.isLt k.isLt, ← hk]
    cases frameBit f k <;> decide
  · simp only [enc_getElem]
    exact ⟨rfl, rfl, rfl⟩

/-- Settles O32: the symbols without data do not read the frame, and FR7 reads back from either repeat. -/
theorem waveformDependsOnDataPositionsOnly : Obligations.WaveformDependsOnDataPositionsOnly := by
  unfold Obligations.WaveformDependsOnDataPositionsOnly
  refine ⟨fun f g d hd => ?_,
    fun f => ⟨enc_toList_length f, waveByte_enc f (by decide) 7, waveByte_enc f (by decide) 7⟩⟩
  have hsym : d.val / 2 = 0 ∨ d.val / 2 = 65 ∨ d.val / 2 = 66 ∨ d.val / 2 = 131 := by
    simp only [List.mem_cons, List.not_mem_nil, or_false] at hd
    omega
  rw [Fin.getElem_fin, Fin.getElem_fin, enc_getElem, enc_getElem, pulseAt_of_no_data hsym f g]

/-! ### ENCODE (R82) -/

/-- A step appends to the responses already delivered, and changes none of them. -/
theorem StepCase.respLog_grows {s u : State} (h : StepCase s u) : s.respLog <+: u.respLog := by
  rcases h.respLog with hkept | ⟨r, -, hone⟩
  · rw [hkept]
  · exact ⟨[r], hone.symm⟩

/-- Settles O9: the command's own equation, the record of responses that only grows, and the round trip for FR7. -/
theorem encodeReturnsWaveform : Obligations.EncodeReturnsWaveform := by
  unfold Obligations.EncodeReturnsWaveform
  refine ⟨fun w h => decode_of_high6 0x9#4 h, exec_encode, fun s => ?_, waveByte_enc Claim.off (by decide) 7,
    waveByte_enc Claim.off (by decide) 7, rfl⟩
  obtain ⟨u, hu, hcase⟩ := step_total s
  exact ⟨u, hu, hcase.respLog_grows⟩

end Sys2Proof.Machine
end

section
/-! SUPPORT. Family 41_waveform_encoder: how long a waveform lasts (R85, R86). -/

namespace Sys2Proof.Machine

/-- How long a list of durations lasts, in microseconds. -/
def timeOf (ds : List Duration) : Nat := (ds.map BitVec.toNat).sum

theorem timeOf_append (a b : List Duration) : timeOf (a ++ b) = timeOf a + timeOf b := by simp [timeOf]

/-- A symbol's time is its mark and its space. -/
theorem timeOf_emit (ks : List Pulse) :
    timeOf (emit ks) = (ks.map fun k => (markOf k).toNat + (spaceOf k).toNat).sum := by
  induction ks with
  | nil => rfl
  | cons k ks ih =>
    have hone : timeOf (emit [k]) = (markOf k).toNat + (spaceOf k).toNat := by simp [emit, timeOf]
    rw [List.map_cons, List.sum_cons, ← ih, ← hone, ← timeOf_append, ← emit_append, List.singleton_append]

/-- One repeat's data lasts 64 * 2163 us, whatever its bits. -/
theorem timeOf_data (f : Frame) : timeOf (emit (dataPulses f)) = 138432 := by
  have hsym (n : Nat) (hn : n ∈ (dataPulses f).map fun k => (markOf k).toNat + (spaceOf k).toNat) : n = 2163 := by
    obtain ⟨k, hk, rfl⟩ := List.mem_map.mp hn
    obtain rfl | rfl := dataPulses_mem hk <;> rfl
  rw [timeOf_emit, List.sum_eq_card_nsmul _ _ hsym, List.length_map, dataPulses_length, smul_eq_mul]

/-- The layout of R78, in durations. -/
theorem enc_toList_layout (f : Frame) :
    (enc f).toList =
      emit [.hdr] ++ (emit (dataPulses f) ++ (emit [.gap, .hdr] ++ (emit (dataPulses f) ++ emit [.trail]))) := by
  rw [enc_toList, framePulses_eq]
  simp only [← emit_append, List.append_assoc, List.cons_append, List.nil_append]

/-- The durations of repeat `r`'s data. -/
theorem enc_repeat_data (f : Frame) (r : Fin 2) :
    ((enc f).toList.drop (2 + 132 * r.val)).take 128 = emit (dataPulses f) := by
  have hlen : (emit (dataPulses f)).length = 128 := by rw [emit_length, dataPulses_length]
  rw [enc_toList_layout]
  match r with
  | 0 =>
    have hpre : (emit [.hdr]).length = 2 + 132 * (0 : Fin 2).val := rfl
    rw [List.drop_left' hpre, List.take_left' hlen]
  | 1 =>
    have hpre : (emit [.hdr] ++ (emit (dataPulses f) ++ emit [.gap, .hdr])).length = 2 + 132 * (1 : Fin 2).val := by
      rw [List.length_append, List.length_append, hlen]; rfl
    rw [← List.append_assoc (emit (dataPulses f)), ← List.append_assoc (emit [.hdr]), List.drop_left' hpre,
      List.take_left' hlen]

/-- Settles O31: the layout gives both sums from the time of a repeat's data. -/
theorem everyWaveformLastsTheSame : Obligations.EveryWaveformLastsTheSame := by
  unfold Obligations.EveryWaveformLastsTheSame
  refine ⟨fun f => ?_, fun f r => ?_, bitPulse_time, pulse_le, fun f d => ?_⟩
  · change timeOf (enc f).toList = 336718
    simp only [enc_toList_layout, timeOf_append, timeOf_data]
    rfl
  · rw [enc_repeat_data]
    exact timeOf_data f
  · rw [Fin.getElem_fin, enc_getElem]
    split
    · exact (pulse_le _).1
    · exact (pulse_le _).2

end Sys2Proof.Machine
end

section
/-! SUPPORT. Family 42_command_sequencer: SEND's whole effect, and what its frame keeps or forgets (R87 to R91). -/

namespace Sys2Proof.Machine

open Sys2Proof.Claim

/-! ### SEND's frame and next state -/

/-- The statements' whole next state is SEND's commit, hand-off and response (R87 to R89). -/
theorem respond_transmit_setFrame (s : State) (f : Frame) :
    ((s.setFrame f).transmit (enc f)).respond .ok 0x01 none = handedOver s f := rfl

/-- SEND 1 leaves POWER_ON's frame, as the statements write it (R87). -/
theorem sendFrame_on (b : Bool) (m l t : Byte) (sw : Bool) (f : Frame) :
    sendFrame b true m l t sw f = onFrame b m l t sw f := applyPowerOn_eq_onFrame b m l t sw f

/-- Settles O10: SEND hands over the frame it leaves, which is the off-frame or POWER_ON's. -/
theorem sendUpdatesEncodesHandsOver : Obligations.SendUpdatesEncodesHandsOver := by
  unfold Obligations.SendUpdatesEncodesHandsOver
  refine ⟨fun w h => decode_of_high6 0xA#4 h, fun m l t sw s => ?_, fun m l t sw s => ?_,
    leaves_of_frameAfter (by decide)⟩
  · rw [exec_send_off, respond_transmit_setFrame, off_eq_offFrame]
  · rw [exec_send, respond_transmit_setFrame, sendFrame_on]

/-! ### After SEND 0: nothing of the past (R90) -/

/-- On a cleared FR6, the swing bits are all there is. -/
theorem swingByte_zero (sw : Bool) : swingByte sw 0x00 = if sw then 0xC0 else 0x00 := by
  cases sw <;> rfl

/-- POWER_ON's frame on the off-frame: the low bits FR5 and FR6 keep are zeros there (R90). -/
theorem onFrame_off (b : Bool) (m l t : Byte) (sw : Bool) :
    onFrame b m l t sw off = summed ⟨0x01, fanModeByte l.toNat m.toNat, BitVec.ofNat 8 (2 * t.toNat), 0x00, 0x00,
      if b then 0x30 else 0xC0, if sw then 0xC0 else 0x00, 0x00⟩ := by
  rw [← swingByte_zero]
  cases b <;> rfl

/-- Settles O35: SEND 0 leaves the off-frame, so SEND 1 makes its frame of that one. -/
theorem sendAfterOffForgetsHistory : Obligations.SendAfterOffForgetsHistory := by
  unfold Obligations.SendAfterOffForgetsHistory
  intro m0 l0 t0 m l t sw0 sw s
  obtain ⟨u, hu, hfr⟩ := execAll_frame [.send false m0 l0 t0 sw0, .send true m l t sw] s
  refine ⟨u, hu, ?_⟩
  calc u.fr
    _ = sendFrame s.params.onSetsPower true m l t sw (sendFrame s.params.onSetsPower false m0 l0 t0 sw0 s.fr) := hfr
    _ = onFrame s.params.onSetsPower m l t sw off := by rw [sendFrame_off, sendFrame_on, off_eq_offFrame]
    _ = _ := onFrame_off ..

/-! ### Without an off: what SEND 1 keeps (R91) -/

/-- POWER_ON's frame keeps FR6[5:0]. -/
theorem applyPowerOn_swingLow (b : Bool) (m l t : Byte) (sw : Bool) (f : Frame) :
    swingLow (applyPowerOn b m l t sw f) = swingLow f := insertSwing_low sw f.swing

/-- Without `ON_SETS_POWER`, POWER_ON's frame keeps FR5. -/
theorem applyPowerOn_false_power (m l t : Byte) (sw : Bool) (f : Frame) :
    (applyPowerOn false m l t sw f).power = f.power := rfl

/-- Under `ON_SETS_POWER`, PWRCODE is the on code. -/
theorem applyPowerOn_true_pwrCode (m l t : Byte) (sw : Bool) (f : Frame) :
    pwrCode (applyPowerOn true m l t sw f) = 0x3 := insertPower_high true f.power

/-- Under `ON_SETS_POWER`, FR5[3:0] is kept. -/
theorem applyPowerOn_true_powerLow (m l t : Byte) (sw : Bool) (f : Frame) :
    powerLow (applyPowerOn true m l t sw f) = powerLow f := insertPower_low true f.power

/-- Settles O37: SEND 1 leaves POWER_ON's frame, which keeps all but the user fields. -/
theorem sendOnKeepsHistory : Obligations.SendOnKeepsHistory := by
  unfold Obligations.SendOnKeepsHistory
  intro m l t sw s
  obtain ⟨hmarker, hrsv3, hrsv4, -⟩ := applyPowerOn_fieldUpdate s.params.onSetsPower m l t sw s.fr
  refine ⟨_, exec_send true m l t sw s, hmarker, hrsv3, hrsv4, applyPowerOn_swingLow .., fun hb => ?_, fun hb => ?_⟩
  · rw [hb]
    exact applyPowerOn_false_power m l t sw s.fr
  · rw [hb]
    exact ⟨applyPowerOn_true_pwrCode m l t sw s.fr, applyPowerOn_true_powerLow m l t sw s.fr⟩

end Sys2Proof.Machine
end

section
/-! SUPPORT. Family 60_exceptions: what a command's one response holds, and the step of any state (R93, R95, R98). -/

namespace Sys2Proof.Machine

/-! ### The one response of a command (R27, R95) -/

/-- SEND answers the success flag (R89). -/
theorem responseOf_data_of_isSend {i : Instr} (hi : isSend i = true) (f : Frame) : (responseOf i f).data = 0x01 := by
  cases i with
  | send => rfl
  | setTemp | setFan | setMode | setPower | setSwing | powerOff | powerOn | checksum | encode => cases hi

/-- Only CHECKSUM and SEND answer anything but 0x00. -/
theorem responseOf_data_eq_zero {i : Instr} (hsum : i ≠ .checksum) (hsend : isSend i = false) (f : Frame) :
    (responseOf i f).data = 0x00 := by
  cases i with
  | checksum => exact absurd rfl hsum
  | send => cases hsend
  | setTemp | setFan | setMode | setPower | setSwing | powerOff | powerOn | encode => rfl

/-- Only ENCODE answers a waveform. -/
theorem responseOf_wave_eq_none {i : Instr} (hi : i ≠ .encode) (f : Frame) : (responseOf i f).wave = none := by
  cases i with
  | encode => exact absurd rfl hi
  | setTemp | setFan | setMode | setPower | setSwing | powerOff | powerOn | checksum | send => rfl

/-- A command's response is OK with its data and its wave: no command answers another status (R93, R95). -/
theorem responseOf_eq_ok (i : Instr) (f : Frame) :
    responseOf i f = ⟨.ok, (responseOf i f).data, (responseOf i f).wave⟩ := by
  rw [← responseOf_status i f]

/-- Settles O12: a command answers `responseOf`, whose data and wave are known by the kind of command; an illegal word
raises ILLEGAL (`step_takes_illegal`). -/
theorem everyCommandAnswersOnce : Obligations.EveryCommandAnswersOnce := by
  unfold Obligations.EveryCommandAnswersOnce
  refine ⟨fun i s => ?_, fun s w rest r ht hd => ⟨_, step_takes_illegal ht hd, rfl⟩, rfl, rfl, fun st => ?_⟩
  · refine ⟨_, _, _, exec_eq i s, congrArg (s.respLog ++ [·]) (responseOf_eq_ok i s.fr), ?checksum,
      fun hsend => responseOf_data_of_isSend hsend s.fr, fun hsum hsend => responseOf_data_eq_zero hsum hsend s.fr,
      ?encode, fun henc => responseOf_wave_eq_none henc s.fr⟩
    case checksum => rintro rfl; rfl
    case encode => rintro rfl; rfl
  · cases st with
    | ok => exact .inl rfl
    | illegal => exact .inr rfl

/-! ### The step of any state: a reset asserted, nothing presented (R93, R98) -/

/-- The reset step does not look at the words presented: it drops them all (R98; log 6). -/
theorem State.takeReset_setPort (s : State) (ws : List CmdWord) : { s with port := ws }.takeReset = s.takeReset := rfl

/-- Settles O46: with reset asserted the step is `takeReset`, whatever the port holds. -/
theorem resetOutranksPresentedWords : Obligations.ResetOutranksPresentedWords := by
  unfold Obligations.ResetOutranksPresentedWords
  intro s ws ha
  refine ⟨s.takeReset, step_asserted ha, ?_, State.takeReset_txlog s, State.takeReset_respLog s, State.takeReset_port s⟩
  rw [← State.takeReset_setPort s ws]
  exact step_asserted ha

/-- Settles O49: every state has a step (`step_total`), each kind of step keeps the parameters, and with nothing presented
the step is `step_idle`. -/
theorem everyStepAnswersNext : Obligations.EveryStepAnswersNext := by
  unfold Obligations.EveryStepAnswersNext
  intro s
  obtain ⟨u, hu, hcase⟩ := step_total s
  exact ⟨u, hu, hcase.params, fun ha hp => Host.Outcome.next.inj (hu.symm.trans (step_idle ha hp))⟩

end Sys2Proof.Machine
end

section
/-! SUPPORT. Family 70_reset_and_hazards: the commands after an off, and FR6's stale bits (R110, R116, R118). -/

namespace Sys2Proof.Machine

open Sys2Proof.Claim

/-! ### After an off, the frame is the off-frame's (R110) -/

/-- A sequence that begins with an off command makes its frame of the off-frame, whatever the frame was before. -/
theorem execAll_after_off {i : Instr} (hi : isOffCommand i = true) (is : List Instr) (s : State) :
    ∃ u, execAll (i :: is) s = .next u ∧
      u.fr = is.foldl (fun f j => frameAfter s.params.onSetsPower j f) offFrame := by
  obtain ⟨u, hu, hfr⟩ := execAll_frame (i :: is) s
  exact ⟨u, hu, by rw [hfr, List.foldl_cons, frameAfter_of_isOffCommand hi]⟩

/-- Settles O36: both sequences make their frame of the off-frame, with the same command and the same parameter. -/
theorem offThenOnHidesThePast : Obligations.OffThenOnHidesThePast := by
  unfold Obligations.OffThenOnHidesThePast
  intro off1 off2 m l t sw viaSend s s' h1 h2 hparam
  obtain ⟨u, hu, hufr⟩ := execAll_after_off h1 [if viaSend then .send true m l t sw else .powerOn m l t sw] s
  obtain ⟨v, hv, hvfr⟩ := execAll_after_off h2 [if viaSend then .send true m l t sw else .powerOn m l t sw] s'
  exact ⟨u, v, hu, hv, by rw [hufr, hvfr, hparam]⟩

/-! ### The power code after an off (R118) -/

/-- The newest hand-off of a sequence that ends with a SEND is that of the frame the sequence leaves (R92). -/
theorem execAll_send_last {i : Instr} (hi : isSend i = true) (is : List Instr) {s v : State}
    (hv : execAll (is ++ [i]) s = .next v) : v.txlog.getLast? = some ⟨enc v.fr, 38⟩ := by
  induction is generalizing s with
  | nil =>
    rw [List.nil_append, execAll, exec_eq] at hv
    cases hv
    rw [handOffsOf_send hi, List.getLast?_concat]
  | cons j is ih =>
    rw [List.cons_append, execAll, exec_eq] at hv
    exact ih hv

/-- On the off-frame, POWER_ON's frame has the off code unless `ON_SETS_POWER`. -/
theorem applyPowerOn_offFrame_power (b : Bool) (m l t : Byte) (sw : Bool) :
    (applyPowerOn b m l t sw offFrame).power = if b then 0x30 else 0xC0 := by
  cases b
  · rfl
  · rfl

/-- Where FR5 has the on code already, POWER_ON's frame keeps FR5 with either parameter. -/
theorem applyPowerOn_power_of_on (b : Bool) (m l t : Byte) (sw : Bool) {f : Frame} {c : Byte}
    (h : f.power = insertPower true c) : (applyPowerOn b m l t sw f).power = f.power := by
  cases b
  · rfl
  · change insertPower true f.power = f.power
    rw [h, insertPower_insertPower]

/-- Settles O39: FR5 of the off-frame is 0xC0, and only `ON_SETS_POWER` or SET_POWER 1 make it 0x30; SEND hands over the
frame it leaves. -/
theorem powerCodeAfterAnOff : Obligations.PowerCodeAfterAnOff := by
  unfold Obligations.PowerCodeAfterAnOff
  intro i m l t sw s hi
  obtain ⟨u1, h1, hfr1⟩ := execAll_after_off hi [.send true m l t sw] s
  obtain ⟨u2, h2, hfr2⟩ := execAll_after_off hi [.powerOn m l t sw] s
  obtain ⟨u3, h3, hfr3⟩ := execAll_after_off hi [.setPower true, .send true m l t sw] s
  refine ⟨u1, u2, u3, h1, h2, h3, ?_, ?_, ?_, execAll_send_last rfl [i] h1, execAll_send_last rfl [i, .setPower true] h3⟩
  · rw [hfr1]; exact applyPowerOn_offFrame_power ..
  · rw [hfr2]; exact applyPowerOn_offFrame_power ..
  · rw [hfr3]; exact applyPowerOn_power_of_on _ m l t sw (c := offFrame.power) rfl

/-! ### FR6[5:0] (R116) -/

/-- A field update keeps FR6[5:0]: SWINGBITS are all that is written of FR6 (R69). -/
theorem FieldUpdate.swingLow_eq {f g : Frame} (h : FieldUpdate f g) : swingLow g = swingLow f := by
  rcases h.swing with hs | ⟨sw, hs⟩
  · rw [swingLow, hs, swingLow]
  · rw [swingLow, hs, insertSwing_low, swingLow]

/-- The off commands clear FR6[5:0], and every other command keeps them. -/
theorem frameAfter_swingLow_eq (b : Bool) (i : Instr) (f : Frame) :
    swingLow (frameAfter b i f) = if isOffCommand i then 0 else swingLow f := by
  cases i with
  | setTemp | setFan | setMode | setPower | setSwing | powerOn => exact (frameAfter_of_isMutator rfl b f).swingLow_eq
  | powerOff | checksum | encode => rfl
  | send p m l t sw =>
    cases p
    · rfl
    · exact applyPowerOn_swingLow b m l t sw f

/-- Settles O41: `frameAfter_swingLow_eq` for the commands, and the invariant for the reachable states. -/
theorem staleSwingBitsComeFromReset : Obligations.StaleSwingBitsComeFromReset := by
  unfold Obligations.StaleSwingBitsComeFromReset
  refine ⟨fun i s => ⟨_, exec_eq i s, frameAfter_swingLow_eq _ i s.fr⟩, fun p s hp hs hne => ?_⟩
  obtain ⟨hinv, hparams⟩ := reachable_inv hp hs
  rw [← hparams]
  exact hinv.swingLowKept.resolve_right hne

end Sys2Proof.Machine
end

section
/-! SUPPORT. Family 70_reset_and_hazards: reset at launch, between commands and during a SEND, and the words that wait
behind others (R107, R108, R112). -/

namespace Sys2Proof.Machine

open Sys2Proof.Claim

/-! ### Launch and the reset step (R30, R107) -/

/-- Settles O55: `State.reset` is launch with the reference parameters, which are admissible. -/
theorem launchHasInvariant : Obligations.LaunchHasInvariant := by
  unfold Obligations.LaunchHasInvariant
  have href : Params.reference.Admissible := by decide
  exact ⟨fun _ => launch_inv, href, launch_inv href⟩

/-- After a reset, the next word presented is the next one taken. -/
theorem takes_present_takeReset (s : State) (w : CmdWord) : Takes (s.takeReset.present w) w [] := by
  constructor
  · rw [State.present_resetIn, State.takeReset_resetIn]; decide
  · rw [State.present_port, State.takeReset_port, List.nil_append]

/-- Settles O44: the step of an asserted reset is `takeReset`. -/
theorem resetWritesFrameKeepsTxLog : Obligations.ResetWritesFrameKeepsTxLog := by
  unfold Obligations.ResetWritesFrameKeepsTxLog
  refine ⟨fun p => ⟨State.launch_fr p, State.launch_txlog p⟩, fun s ha => ⟨s.takeReset, step_asserted ha, ?_⟩⟩
  exact ⟨State.takeReset_fr s, State.takeReset_txlog s, State.takeReset_respLog s, takes_present_takeReset s⟩

/-! ### Reset during a SEND (R108) -/

/-- With reset to arrive during a Transmitter wait, exactly SEND is cut short. -/
theorem isCutShort_of_duringSend {s : State} (h : s.resetIn = .duringSend) (i : Instr) :
    isCutShort i s = isSend i := by
  simp [isCutShort, h]

/-- A reset still to arrive during a SEND does not outrank the word presented. -/
theorem takes_of_duringSend {s : State} {w : CmdWord} {rest : List CmdWord} (hreset : s.resetIn = .duringSend)
    (hport : s.port = w :: rest) : Takes s w rest := ⟨by rw [hreset]; decide, hport⟩

/-- Settles O45: the step leaves `commandResult`, cut short for a SEND and whole for any other command; a cut-short SEND
leaves reset asserted. -/
theorem resetDuringSendDropsResponse : Obligations.ResetDuringSendDropsResponse := by
  unfold Obligations.ResetDuringSendDropsResponse
  constructor
  · intro s w rest i hreset hport hd hsend
    have hcut : isCutShort i { s with port := rest } = true := (isCutShort_of_duringSend hreset i).trans hsend
    have hresp : (commandResult i { s with port := rest }).respLog = s.respLog := by
      rw [commandResult_respLog, if_pos hcut]
    have hpending : (commandResult i { s with port := rest }).resetIn = .asserted := by
      rw [commandResult_resetIn, if_pos hcut]
    exact ⟨_, _, _, exec_eq i s, step_takes_command (takes_of_duringSend hreset hport) hd, rfl, rfl, hresp,
      step_asserted hpending, rfl, rfl, hresp⟩
  · intro s w rest i hreset hport hd hsend
    have hwhole : isCutShort i { s with port := rest } = false := (isCutShort_of_duringSend hreset i).trans hsend
    refine ⟨_, _, exec_eq i s, step_takes_command (takes_of_duringSend hreset hport) hd, rfl, ?_, ?_⟩
    · rw [commandResult_respLog, hwhole]; rfl
    · rw [commandResult_resetIn, hwhole]; exact hreset

/-! ### A word behind others (R43, R112) -/

/-- A word presented behind the one taken does not change which is taken. -/
theorem takes_present {s : State} {w' : CmdWord} {rest : List CmdWord} (h : Takes s w' rest) (w : CmdWord) :
    Takes (s.present w) w' (rest ++ [w]) := by
  obtain ⟨hreset, hport⟩ := h
  exact ⟨hreset, by rw [State.present_port, hport, List.cons_append]⟩

/-- No command looks at the words still waiting. -/
theorem commandResult_present (i : Instr) (s : State) (w : CmdWord) :
    commandResult i (s.present w) = (commandResult i s).present w := rfl

/-- Nor does the ILLEGAL response. -/
theorem raiseIllegal_present (s : State) (w : CmdWord) : (s.present w).raiseIllegal = s.raiseIllegal.present w := rfl

/-- Settles O47: both steps take the same word, and neither a command nor the ILLEGAL response looks at the words
behind it. -/
theorem laterWordsWaitInOrder : Obligations.LaterWordsWaitInOrder := by
  unfold Obligations.LaterWordsWaitInOrder
  intro s w hreset hne
  obtain ⟨w', rest, hport⟩ := List.exists_cons_of_ne_nil hne
  have ht : Takes s w' rest := ⟨hreset, hport⟩
  rw [hport, List.tail_cons]
  cases hd : decode w' with
  | illegal r =>
    refine ⟨_, step_takes_illegal ht hd, ?_, rfl⟩
    rw [← raiseIllegal_present]
    exact step_takes_illegal (takes_present ht w) hd
  | command i =>
    refine ⟨_, step_takes_command ht hd, ?_, rfl⟩
    rw [← commandResult_present]
    exact step_takes_command (takes_present ht w) hd

end Sys2Proof.Machine
end
